-- ==== Sys2Proof/Word.lean ====
section
/-! DEFINITION. The bit vectors the spec gives the block: bytes, frames, samples, checksum operands,
command words and opcodes (00_scope.md R6, R9, R10; 30_encoding.md R81 to R83). -/

namespace Sys2Proof

/-- A byte, 8 bits (R9). -/
abbrev Byte := BitVec 8

/-- A frame and the contents of a slot, `DW = 240` bits: byte `k` is bits `[8k+7 : 8k]` (R6, R10, R20). -/
abbrev Frame := BitVec 240

/-- The `sample` operand of format S, 192 bits (R90). -/
abbrev Sample := BitVec 192

/-- The `bytes` operand of format B, 28 bytes (R83). -/
abbrev CkBytes := BitVec 224

/-- The 4-bit opcode field of a command word (R81). -/
abbrev Opcode := BitVec 4

/-- What stands on a port's command input: as wide as the widest command word, format F (R83); a shorter command
uses its low bits only (R84). -/
abbrev CmdWord := BitVec 244

end Sys2Proof
end

