-- ==== Sys2Proof/Config.lean ====
section
/-! DEFINITION. The implementation parameters (00_scope.md R5 to R8) and the free values: constants with no body
that stand where the spec gives a value no one may rely on (93_implementation_defined.md U1, U2, U8, U9). -/

namespace Sys2Proof

/-- `VIEW` (R8): what a port sees when it reads the index the other port owns. -/
inductive View where
  /-- the value the index holds at the step of the read (R61) -/
  | current
  /-- any value the index has held since this port's previous read of it (R62) -/
  | stale
deriving DecidableEq, Repr

/-- The parameters the spec leaves open (R5 to R8, D1, D4, D5, D6), fixed for one machine (R265). -/
structure Config where
  /-- `N`, the number of slots: a power of two, at least 2 (R5) -/
  N : Nat
  /-- `OVF_W`, the width of `overflow_count` (R6, D4) -/
  ovfW : Nat
  /-- `HAS_FRAMER` (R7) -/
  hasFramer : Bool
  /-- `SEQ_INIT` (R7, D5) -/
  seqInit : BitVec 16
  /-- `VIEW` (R8, D6) -/
  view : View
deriving DecidableEq, Repr

/-- The configuration of `State.reset`. DESIGN CHOICE (log entry 1): the spec gives `N` and `HAS_FRAMER` no default;
16 and true are those of its test vectors (95_test_vectors.md); the other three are its defaults. -/
def Config.default : Config :=
  { N := 16, ovfW := 32, hasFramer := true, seqInit := 0x0000#16, view := .current }

/-- `W = log2 N`, the width of an index and of a count (R6). -/
def Config.W (c : Config) : Nat := Nat.log2 c.N

/-- Free value: what slot `i` holds while no `PUSH` has written it since reset (R21, R262, U1; log entry 2). -/
opaque Config.unwrittenSlot : Nat → Frame

/-- Free value: the 240 payload bits of a response `EMPTY` (R91, U2; log entry 4). -/
opaque Config.emptyPayload : Nat → Frame

/-- Free value: how far into the values an index has passed through a stale `observe` reaches (R62, U8; log entry 5). -/
opaque Config.staleDepth : Nat → Nat

/-- Free value: whether port R, not port W, takes the next micro-step where both can (R59, U9; log entry 6). -/
opaque Config.portRNext : Nat → Bool

end Sys2Proof
end

