-- ==== Sys2Proof/Syntax.lean ====
section
/-! DEFINITION. The commands of the block, one constructor per row of spec/opcode_table.json (30_encoding.md R92),
the ports (R80), the command formats (R82, R83), the status codes (R87) and the trace shorthands (R99). -/

namespace Sys2Proof

/-- The two ports (R80). -/
inductive Port where
  /-- port W, driven by the producer -/
  | w
  /-- port R, driven by the consumer -/
  | r
deriving DecidableEq, Repr

/-- The eight commands (R92), each with its operand (R83). -/
inductive Instr where
  /-- `PUSH f`, format F, `op = 0x1` (R110) -/
  | push (f : Frame)
  /-- `POP`, format Z, `op = 0x2` (R130) -/
  | pop
  /-- `AVAIL`, format Z, `op = 0x3` (R151) -/
  | avail
  /-- `FREE`, format Z, `op = 0x4` (R153) -/
  | free
  /-- `FLAGS`, format Z, `op = 0x5` (R155) -/
  | flags
  /-- `OVFCNT`, format Z, `op = 0x6` (R157) -/
  | ovfcnt
  /-- `FRAME s`, format S, `op = 0x8` (R175) -/
  | frame (s : Sample)
  /-- `CKSUM b`, format B, `op = 0x9` (R179) -/
  | cksum (b : CkBytes)
deriving DecidableEq, Repr

/-- What a command word stands for: a command, or a reserved opcode, which the block answers `ILLEGAL` (R93). -/
inductive Command where
  | instr (i : Instr)
  | reserved (op : Opcode)
deriving DecidableEq, Repr

/-- The formats of a command word (R82, R83). -/
inductive Format where
  | Z | F | S | B
deriving DecidableEq, Repr

/-- The four outcomes of a command (R87, R230). -/
inductive Status where
  /-- the command did what it is for -/
  | ok
  /-- `PUSH` only: no free space, the frame is discarded and counted -/
  | overflow
  /-- `POP` only: no frame resident, nothing changed -/
  | empty
  /-- reserved opcode, command at the wrong port, or framer command without a framer; nothing changed -/
  | illegal
deriving DecidableEq, Repr

/-- The pseudo-operations of a trace (R99). -/
inductive Pseudo where
  | isEmpty (p : Port)
  | isFull (p : Port)
  | send (s : Sample)
  | drain
deriving DecidableEq, Repr

/-- A Sample Frame as a record of the fields R170 lists, in the order of the wire, the header as its two bytes
(R51, R88). A signed axis field is its 16-bit pattern (R11). -/
structure SampleFrame where
  header0 : Byte
  header1 : Byte
  sequence : BitVec 16
  timestamp : BitVec 32
  accelX : BitVec 16
  accelY : BitVec 16
  accelZ : BitVec 16
  gyroX : BitVec 16
  gyroY : BitVec 16
  gyroZ : BitVec 16
  processTime : BitVec 32
  priorSendTime : BitVec 32
  checksum : Byte
  padding : Byte
deriving DecidableEq, Repr

end Sys2Proof
end

