-- ==== Sys2Proof/Machine/Codec.lean ====
section
/-! DEFINITION. The codec functions of the framer (43_framer.md R170 to R174) and the byte view of a frame
(00_scope.md R10, 30_encoding.md R88 to R90). -/

namespace Sys2Proof.Machine

/-- Byte `k` of a byte string held as a vector: bits `[8k+7 : 8k]` (R10). -/
def byteAt {n : Nat} (v : BitVec n) (k : Nat) : Byte := v.extractLsb' (8 * k) 8

/-- The byte string of `n` bytes that a vector is (R10). -/
def bytesOf {m : Nat} (n : Nat) (v : BitVec m) : List Byte := (List.range n).map (byteAt v)

/-- The vector of a byte string, byte 0 least significant (R10, R89). -/
def ofBytes (n : Nat) (bs : List Byte) : BitVec n :=
  BitVec.ofNat n (bs.foldr (fun b acc => b.toNat + 256 * acc) 0)

/-- `checksum(b)`: the fold of R171 over the 28 bytes, modulo 256. -/
def checksum (b : CkBytes) : Byte := (bytesOf 28 b).foldl (fun acc x => acc + x) 0#8

/-- Bytes 0 to 27 of a frame. -/
def frameBody (f : Frame) : CkBytes := f.extractLsb' 0 224

/-- `well_formed(b)` (R173). -/
def wellFormedFrame (f : Frame) : Bool :=
  byteAt f 0 == 0xAA#8 && byteAt f 1 == 0x55#8 && byteAt f 28 == checksum (frameBody f) && byteAt f 29 == 0x00#8

/-- `encode(rec)`: the record laid out as on the wire; the checksum is copied, not computed (R88, R172). -/
def encodeFrame (x : SampleFrame) : Frame :=
  x.padding ++ x.checksum ++ x.priorSendTime ++ x.processTime ++ x.gyroZ ++ x.gyroY ++ x.gyroX ++ x.accelZ ++ x.accelY
    ++ x.accelX ++ x.timestamp ++ x.sequence ++ x.header1 ++ x.header0

/-- `decode(b)`: the record whose fields are the slices of R88 (R172). -/
def decodeFrame (f : Frame) : SampleFrame :=
  { header0 := f.extractLsb' 0 8
    header1 := f.extractLsb' 8 8
    sequence := f.extractLsb' 16 16
    timestamp := f.extractLsb' 32 32
    accelX := f.extractLsb' 64 16
    accelY := f.extractLsb' 80 16
    accelZ := f.extractLsb' 96 16
    gyroX := f.extractLsb' 112 16
    gyroY := f.extractLsb' 128 16
    gyroZ := f.extractLsb' 144 16
    processTime := f.extractLsb' 160 32
    priorSendTime := f.extractLsb' 192 32
    checksum := f.extractLsb' 224 8
    padding := f.extractLsb' 232 8 }

/-- The `sample` operand that will become bytes `[4, 28)` of a frame: `frame[223:32]` (R90). -/
def sampleOf (f : Frame) : Sample := f.extractLsb' 32 192

/-- A sample operand written field by field, axes as signed numbers (R90, R97). PRESUMED (log entry 18): a negative axis
value is its 16-bit two's complement pattern (R11). -/
def mkSample (ts : BitVec 32) (ax ay az gx gy gz : Int) (pt pst : BitVec 32) : Sample :=
  pst ++ pt ++ BitVec.ofInt 16 gz ++ BitVec.ofInt 16 gy ++ BitVec.ofInt 16 gx ++ BitVec.ofInt 16 az
    ++ BitVec.ofInt 16 ay ++ BitVec.ofInt 16 ax ++ ts

/-- Bytes 0 to 27 of the frame `mkframe` builds: `{s, seq, 0x55, 0xAA}` (R174). -/
def mkBody (seq : BitVec 16) (s : Sample) : CkBytes := s ++ seq ++ 0x55#8 ++ 0xAA#8

/-- `mkframe(seq, s)` (R174). -/
def mkframe (seq : BitVec 16) (s : Sample) : Frame := 0x00#8 ++ checksum (mkBody seq s) ++ mkBody seq s

end Sys2Proof.Machine
end

