-- ==== Sys2Proof/Machine/Flags.lean ====
section
/-! DEFINITION. The index arithmetic, the counts and the flags (00_scope.md R12; 10_state.md R28 to R30;
42_status.md R150): functions of two index values, computed in the integers and reduced modulo `N`. -/

namespace Sys2Proof.Machine

/-- `inc(i) = (i + 1) mod N` (R12). -/
def inc (n i : Nat) : Nat := (i + 1) % n

/-- `available(w, r) = (w − r) mod N` (R28, R150). -/
def available (n w r : Nat) : Nat := (((w : Int) - (r : Int)) % (n : Int)).toNat

/-- `free_space(w, r) = N − available(w, r) − 1` (R28, R150). -/
def freeSpace (n w r : Nat) : Nat := n - available n w r - 1

/-- Flag `empty`: `w == r` (R29, R155). -/
def emptyFlag (w r : Nat) : Bool := w == r

/-- Flag `full`: `inc(w) == r` (R30, R155). -/
def fullFlag (n w r : Nat) : Bool := inc n w == r

/-- `overflow_count + 1`, modulo `2^OVF_W` (R12, R26). -/
def incOverflow (ovfW c : Nat) : Nat := (c + 1) % 2 ^ ovfW

/-- `seq_next + 1`, modulo 65536 (R12, R27). -/
def incSeq (q : BitVec 16) : BitVec 16 := q + 1#16

/-- The values an index has passed through from `last` to `cur`, both ends included (R62). -/
def passedThrough (n last cur : Nat) : List Nat :=
  (List.range (available n cur last + 1)).map (fun j => (last + j) % n)

/-- The value of R62's list that lies `k` places into it, `k` taken round the list's length. -/
def staleValue (n last cur k : Nat) : Nat := (last + k % (available n cur last + 1)) % n

end Sys2Proof.Machine
end

