-- ==== Sys2Proof/Decode.lean ====
section
/-! DEFINITION. Command words to commands and back (30_encoding.md R81 to R84, R92, R93). Total on any bits: a reserved
opcode is answered by name, with the opcode. -/

namespace Sys2Proof

/-- The format of a command word, fixed by its opcode alone; a reserved opcode has format Z (R84, R92). -/
def formatOf (op : Opcode) : Format :=
  match op.toNat with
  | 1 => .F
  | 8 => .S
  | 9 => .B
  | _ => .Z

/-- `L`, the payload length of a format (R82, R83). -/
def payloadLength (f : Format) : Nat :=
  match f with
  | .Z => 0
  | .F => 240
  | .S => 192
  | .B => 224

/-- The width of the command word that begins with this opcode (R81, R84). -/
def wordWidth (op : Opcode) : Nat := payloadLength (formatOf op) + 4

/-- The opcode field, bits `[3:0]` (R81). -/
def opField (w : CmdWord) : Opcode := w.extractLsb' 0 4

/-- The decoder: the opcode, then as many payload bits as its format has; bits above them are not looked at
(R84; log entry 11). -/
def decode (w : CmdWord) : Command :=
  match (opField w).toNat with
  | 1 => .instr (.push (w.extractLsb' 4 240))
  | 2 => .instr .pop
  | 3 => .instr .avail
  | 4 => .instr .free
  | 5 => .instr .flags
  | 6 => .instr .ovfcnt
  | 8 => .instr (.frame (w.extractLsb' 4 192))
  | 9 => .instr (.cksum (w.extractLsb' 4 224))
  | _ => .reserved (opField w)

/-- The opcode of each command (R92). -/
def opcode (i : Instr) : Opcode :=
  match i with
  | .push _ => 0x1#4
  | .pop => 0x2#4
  | .avail => 0x3#4
  | .free => 0x4#4
  | .flags => 0x5#4
  | .ovfcnt => 0x6#4
  | .frame _ => 0x8#4
  | .cksum _ => 0x9#4

/-- The operand of each command, in the payload bits of the widest word, zeros above it (R83). -/
def operandBits (i : Instr) : BitVec 240 :=
  match i with
  | .push f => f
  | .frame s => s.setWidth 240
  | .cksum b => b.setWidth 240
  | .pop => 0#240
  | .avail => 0#240
  | .free => 0#240
  | .flags => 0#240
  | .ovfcnt => 0#240

/-- The encoder: `{payload, op}` (R81), zeros above the command's own length. -/
def encode (i : Instr) : CmdWord := operandBits i ++ opcode i

/-- The command in the `nbits` bits of `w`, every higher bit of the word zero; none for a reserved opcode. -/
def decodeTableWord (nbits w : Nat) : Option Instr :=
  match decode (BitVec.ofNat 244 (w % 2 ^ nbits)) with
  | .instr i => some i
  | .reserved _ => none

end Sys2Proof
end

