-- ==== Sys2Proof/Machine/State.lean ====
section
/-! DEFINITION. The state of the block (10_state.md R20 to R36), the responses it gives (30_encoding.md R86), the reasons
a step can stop, and the state after reset (70_reset_and_hazards.md R260, R261). -/

namespace Sys2Proof.Machine

/-- A response word `{payload, status}` before it is laid out in bits (R86): its status, `M`, and its payload. -/
structure Response where
  status : Status
  /-- `M`, the length of the payload in bits (R91) -/
  len : Nat
  payload : Nat
deriving DecidableEq, Repr

/-- `wstate`, the command in progress at port W (R33). -/
inductive WState where
  /-- `W_IDLE` -/
  | idle
  /-- `W_STARTED(cmd)`: accepted, none of its micro-steps has run -/
  | started (cmd : Instr)
  /-- `W_PUSH_OBSERVED(f, r_obs)` -/
  | pushObserved (f : Frame) (rObs : Nat)
  /-- `W_PUSH_STORED(f)` -/
  | pushStored (f : Frame)
deriving DecidableEq, Repr

/-- `rstate`, the command in progress at port R (R34). -/
inductive RState where
  /-- `R_IDLE` -/
  | idle
  /-- `R_STARTED(cmd)`: accepted, no micro-step run -/
  | started (cmd : Instr)
  /-- `R_POP_OBSERVED(w_obs)` -/
  | popObserved (wObs : Nat)
  /-- `R_POP_LOADED(d)` -/
  | popLoaded (d : Frame)
deriving DecidableEq, Repr

/-- The slot array (R20): the slots a `PUSH` has written since reset, by slot index, indices strictly rising. A slot
that is not listed has not been written and holds no value of the spec's (R21, R262; log entries 2 and 3). -/
abbrev Memory := List (Nat × Frame)

/-- One line of a trace: a port, what was presented there, and the response (R97). -/
structure TraceLine where
  port : Port
  cmd : Command
  resp : Response
deriving DecidableEq, Repr

/-- Why the block has no next state. -/
inductive Fault where
  /-- Raised by every meaning when the port in turn has another command in progress: a second command at a busy port has
  no step (R80, U4). Safe: the machine stops. -/
  | portBusy
  /-- Raised by `PUSH` and `POP` when the port's own index is outside `[0, N-1]`, so that it names no slot (R24, R25,
  R32). Safe: the machine stops, and no run reaches it (R37 item 1). -/
  | noSuchSlot
deriving DecidableEq, Repr

/-- Why the model gives no meaning. -/
inductive Refusal where
  /-- Raised by `exec` for a command that has no meaning yet, by its mnemonic. Safe. -/
  | notModelled (mnemonic : String)
  /-- Raised by `step` for a configuration the spec does not define: `N < 2` or no power of two (R5, U5). Safe. -/
  | configNotAdmitted
deriving DecidableEq, Repr

/-- Everything the spec gives the block, with the configuration and the environment's inputs beside it. -/
structure State where
  /-- the parameters of this machine, changed by no step (R265; log entry 1) -/
  cfg : Config
  /-- `slots[0 .. N-1]` (R20) -/
  slots : Memory
  /-- `write_index` (R24) -/
  writeIndex : Nat
  /-- `read_index` (R25) -/
  readIndex : Nat
  /-- `overflow_count` (R26) -/
  overflowCount : Nat
  /-- `seq_next`, of use with the framer only (R27; log entry 13) -/
  seqNext : BitVec 16
  /-- `wstate` (R33) -/
  wstate : WState
  /-- `rstate` (R34) -/
  rstate : RState
  /-- `w_last_seen_r`, of use with `VIEW = stale` only (R36; log entry 13) -/
  wLastSeen : Nat
  /-- `r_last_seen_w`, of use with `VIEW = stale` only (R36; log entry 13) -/
  rLastSeen : Nat
  /-- the model's own: the command words the producer has still to present at port W, oldest first (log entry 8) -/
  wIn : List CmdWord
  /-- the model's own: the command words the consumer has still to present at port R, oldest first (log entry 8) -/
  rIn : List CmdWord
  /-- the model's own: whose micro-steps come next, as far as the environment has said (R59; log entry 6) -/
  sched : List Port
  /-- the model's own: the port whose micro-step `exec` takes (log entry 9) -/
  turn : Port
  /-- the response outputs' history: every command answered, oldest first (R86, R97; log entry 12) -/
  trace : List TraceLine
  /-- the model's own: how many free values have been drawn (U2, U8, U9; log entry 17) -/
  draws : Nat
deriving DecidableEq, Repr

/-- The state after reset, for a machine of configuration `c` (R260, R261): every register at its reset value, both
ports idle, no slot written, nothing presented and nothing answered. -/
def State.resetWith (c : Config) : State :=
  { cfg := c, slots := [], writeIndex := 0, readIndex := 0, overflowCount := 0, seqNext := c.seqInit,
    wstate := .idle, rstate := .idle, wLastSeen := 0, rLastSeen := 0,
    wIn := [], rIn := [], sched := [], turn := .w, trace := [], draws := 0 }

/-- The state after reset of the machine of the default configuration (log entry 1). -/
def State.reset : State := State.resetWith Config.default

end Sys2Proof.Machine
end

