-- ==== Sys2Proof/Machine/Operands.lean ====
section
/-! DEFINITION. Which port admits which command (30_encoding.md R85, R94, R95), and the response words, form by form
(R86, R87, R91). The operand forms of the command words are in Sys2Proof/Decode.lean. -/

namespace Sys2Proof.Machine

/-- Which port admits which command (R85); the framer commands only with a framer (R95). -/
def admits (c : Config) (p : Port) (i : Instr) : Bool :=
  match i with
  | .push _ => p == .w
  | .pop => p == .r
  | .avail => true
  | .free => true
  | .flags => true
  | .ovfcnt => true
  | .frame _ => c.hasFramer && p == .w
  | .cksum _ => c.hasFramer

/-- The port a command is presented at first where both admit it, and the one that admits it where one does; port W for
a reserved opcode. Used to place a word, never to answer one. -/
def homePort (c : Command) : Port :=
  match c with
  | .instr .pop => .r
  | .instr _ => .w
  | .reserved _ => .w

/-- The number of a status code (R87). -/
def statusCode (t : Status) : Nat :=
  match t with
  | .ok => 0
  | .overflow => 1
  | .empty => 2
  | .illegal => 3

/-- The width of a response word, `M + 2` (R86). -/
def Response.width (r : Response) : Nat := r.len + 2

/-- The response word: the status in bits `[1:0]`, the payload in bits `[M+1 : 2]` (R86). -/
def Response.word (r : Response) : Nat := r.payload * 4 + statusCode r.status

/-- `respond OK()` (R91). -/
def respOk : Response := { status := .ok, len := 0, payload := 0 }

/-- `respond OVERFLOW()` (R91). -/
def respOverflow : Response := { status := .overflow, len := 0, payload := 0 }

/-- `respond ILLEGAL()`: the two status bits only (R91, U3). -/
def respIllegal : Response := { status := .illegal, len := 0, payload := 0 }

/-- `respond EMPTY(unspecified)` with these payload bits (R91, U2). -/
def respEmpty (bits : Frame) : Response := { status := .empty, len := 240, payload := bits.toNat }

/-- `respond OK(frame)` (R91). -/
def respFrame (f : Frame) : Response := { status := .ok, len := 240, payload := f.toNat }

/-- `respond OK(zext_W(count))`, or `OVF_W` bits for `OVFCNT` (R91). -/
def respCount (width count : Nat) : Response := { status := .ok, len := width, payload := count }

/-- `respond OK({f, e})`: response bit 2 is `empty`, bit 3 is `full` (R91, R155). -/
def respFlags (e f : Bool) : Response := { status := .ok, len := 2, payload := e.toNat + 2 * f.toNat }

/-- `respond OK(sum)` (R91). -/
def respSum (b : Byte) : Response := { status := .ok, len := 8, payload := b.toNat }

end Sys2Proof.Machine
end

