-- ==== Sys2Proof/WellFormed.lean ====
section
/-! DEFINITION. What is checked before anything runs: the configuration (00_scope.md R5) and whether a port admits a
command (30_encoding.md R85). Operand widths need no check: they are in the types of `Instr`. -/

namespace Sys2Proof

/-- The configurations the spec defines the block for: `N` a power of two and at least 2 (R5, D1, U5). -/
def Config.ok (c : Config) : Bool := decide (2 ≤ c.N) && decide (2 ^ c.W = c.N)

/-- A command is well formed at a port when the configuration is one the spec defines and the port admits the command
(R5, R85, R95). -/
def Instr.wellFormed (c : Config) (p : Port) (i : Instr) : Bool := c.ok && Machine.admits c p i

end Sys2Proof
end

