-- ==== Sys2Proof/Machine/Ops.lean ====
section
/-! DEFINITION. The named operations: the slot array (20_memory.md R50), the ports and their records (10_state.md R33,
R34), accepting a command and answering it (30_encoding.md R80, R86, R93 to R95), reading the other port's index
(R61, R62), and whose micro-step comes next (R59). The block has no exception to take and none to return from
(60_exceptions.md R238, R239): `State.respond` is what ends a command, whatever its outcome. -/

namespace Sys2Proof.Machine

/-! ### The slot array -/

/-- The slots are listed by strictly rising index; a listed slot is a written one. -/
abbrev Memory.wf (m : Memory) : Prop := m.Pairwise (fun a b => a.1 < b.1)

/-- What a `PUSH` has written into slot `i` since reset, if any has. -/
def Memory.written (m : Memory) (i : Nat) : Option Frame :=
  match m with
  | [] => none
  | (j, v) :: rest => if j = i then some v else Memory.written rest i

/-- `MemRead(i, 30)` (R50): what slot `i` holds; a slot never written holds a free value (U1, log entry 2). -/
def Memory.read (m : Memory) (i : Nat) : Frame :=
  match Memory.written m i with
  | some v => v
  | none => Config.unwrittenSlot i

/-- `MemWrite(i, 30, v)` (R50): all 240 bits of slot `i` are replaced. -/
def Memory.write (m : Memory) (i : Nat) (v : Frame) : Memory :=
  match m with
  | [] => [(i, v)]
  | (j, u) :: rest =>
    if i < j then (i, v) :: (j, u) :: rest
    else if i = j then (i, v) :: rest
    else (j, u) :: Memory.write rest i v

/-- `slots[i]`. -/
def State.slot (s : State) (i : Nat) : Frame := Memory.read s.slots i

/-- Byte `k` of slot `i` (R10, R32). -/
def State.slotByte (s : State) (i k : Nat) : Byte := byteAt (s.slot i) k

/-- The true number of resident frames (R28). -/
def State.available (s : State) : Nat := Machine.available s.cfg.N s.writeIndex s.readIndex

/-- The true free space (R28). -/
def State.freeSpace (s : State) : Nat := Machine.freeSpace s.cfg.N s.writeIndex s.readIndex

/-! ### The ports -/

/-- The other port. -/
def otherPort (p : Port) : Port :=
  match p with
  | .w => .r
  | .r => .w

/-- The port has no command in progress (R33, R34). -/
def State.idle (s : State) (p : Port) : Bool :=
  match p with
  | .w => s.wstate == .idle
  | .r => s.rstate == .idle

/-- The command accepted at the port, none of whose micro-steps has run. -/
def State.startedAt (s : State) (p : Port) : Option Instr :=
  match p with
  | .w => match s.wstate with
    | .started c => some c
    | .idle => none
    | .pushObserved _ _ => none
    | .pushStored _ => none
  | .r => match s.rstate with
    | .started c => some c
    | .idle => none
    | .popObserved _ => none
    | .popLoaded _ => none

/-- The command in progress at the port (R33, R34). -/
def State.inProgress (s : State) (p : Port) : Option Instr :=
  match p with
  | .w => match s.wstate with
    | .idle => none
    | .started c => some c
    | .pushObserved f _ => some (.push f)
    | .pushStored f => some (.push f)
  | .r => match s.rstate with
    | .idle => none
    | .started c => some c
    | .popObserved _ => some .pop
    | .popLoaded _ => some .pop

/-- The command words waiting at the port's command input. -/
def State.input (s : State) (p : Port) : List CmdWord :=
  match p with
  | .w => s.wIn
  | .r => s.rIn

/-- The port's record becomes idle. -/
def State.setIdle (s : State) (p : Port) : State :=
  match p with
  | .w => { s with wstate := .idle }
  | .r => { s with rstate := .idle }

/-- The port's record becomes `STARTED(i)`. -/
def State.setStarted (s : State) (p : Port) (i : Instr) : State :=
  match p with
  | .w => { s with wstate := .started i }
  | .r => { s with rstate := .started i }

/-- `respond`: the response is returned on the port's output and the port becomes idle, in one micro-step (R86). -/
def State.respond (s : State) (p : Port) (c : Command) (x : Response) : State :=
  { s.setIdle p with trace := s.trace ++ [{ port := p, cmd := c, resp := x }] }

/-- What stands on the port's response output: its latest response, none before the first (R80). -/
def State.output (s : State) (p : Port) : Option Response :=
  ((s.trace.filter (fun l => l.port == p)).getLast?).map TraceLine.resp

/-- Micro-step 0, at an idle port in turn: a command the port admits becomes the command in progress; any other is
answered `ILLEGAL` and changes nothing (R94, R95, R111, R131, R236). -/
def State.accept (s : State) (i : Instr) : State :=
  if admits s.cfg s.turn i then s.setStarted s.turn i else s.respond s.turn (.instr i) respIllegal

/-- A command of two micro-steps: acceptance, and one more that ends it. At a port with another command in progress
there is no step (R80, U4). -/
def twoStep (i : Instr) (finish : State → State) (s : State) : Host.Outcome State Fault Refusal :=
  if s.idle s.turn then .next (s.accept i)
  else if s.startedAt s.turn = some i ∧ admits s.cfg s.turn i = true then .next (finish s)
  else .fault .portBusy

/-! ### Reading the other port's index -/

/-- The index the port owns (R24, R25). -/
def State.ownIndex (s : State) (p : Port) : Nat :=
  match p with
  | .w => s.writeIndex
  | .r => s.readIndex

/-- The index the other port owns. -/
def State.otherIndex (s : State) (p : Port) : Nat :=
  match p with
  | .w => s.readIndex
  | .r => s.writeIndex

/-- The port's `last_seen` register (R36). -/
def State.lastSeen (s : State) (p : Port) : Nat :=
  match p with
  | .w => s.wLastSeen
  | .r => s.rLastSeen

/-- `last_seen <- v` at the port. -/
def State.setLastSeen (s : State) (p : Port) (v : Nat) : State :=
  match p with
  | .w => { s with wLastSeen := v }
  | .r => { s with rLastSeen := v }

/-- The value `observe` of the other port's index returns (R61, R62). -/
def State.observed (s : State) (p : Port) : Nat :=
  match s.cfg.view with
  | .current => s.otherIndex p
  | .stale => staleValue s.cfg.N (s.lastSeen p) (s.otherIndex p) (Config.staleDepth s.draws)

/-- What `observe` leaves: nothing changed, or the value recorded in `last_seen` (R57, R62). -/
def State.afterObserve (s : State) (p : Port) : State :=
  match s.cfg.view with
  | .current => s
  | .stale => { s.setLastSeen p (s.observed p) with draws := s.draws + 1 }

/-- The two index values a status command works on: the port's own index exactly, the other as observed (R150). -/
def State.seenWrite (s : State) (p : Port) : Nat :=
  match p with
  | .w => s.writeIndex
  | .r => s.observed .r

/-- The read index as the port sees it (R150). -/
def State.seenRead (s : State) (p : Port) : Nat :=
  match p with
  | .w => s.observed .w
  | .r => s.readIndex

/-! ### Whose micro-step comes next, and what it is -/

/-- The port has a micro-step to take: a command in progress, or one presented while it is idle (R59, R80). -/
def State.enabled (s : State) (p : Port) : Bool := !s.idle p || !(s.input p).isEmpty

/-- The port the environment names next; where it names none, a free value (R59, U9; log entry 6). -/
def State.chosen (s : State) : Port :=
  match s.sched with
  | p :: _ => p
  | [] => if Config.portRNext s.draws then .r else .w

/-- The port that takes the next micro-step: where both have one to take, the one chosen; where one has, that one; none
when neither has (R59; log entries 6 and 7). -/
def State.nextPort (s : State) : Option Port :=
  match s.enabled .w, s.enabled .r with
  | true, true => some s.chosen
  | true, false => some .w
  | false, true => some .r
  | false, false => none

/-- The choice is made: the port has the turn, and the schedule or the free values move on. -/
def State.giveTurn (s : State) (p : Port) : State :=
  match s.sched with
  | _ :: rest => { s with turn := p, sched := rest }
  | [] => { s with turn := p, draws := s.draws + 1 }

/-- The word at the port's command input has been taken. -/
def State.consume (s : State) (p : Port) : State :=
  match p with
  | .w => { s with wIn := s.wIn.tail }
  | .r => { s with rIn := s.rIn.tail }

/-- A word with a reserved opcode is answered `ILLEGAL` in the micro-step that accepts it (R93). -/
def State.answerReserved (s : State) (p : Port) (op : Opcode) : State :=
  s.respond p (.reserved op) respIllegal

/-- What the port in turn runs: the command in progress, else the one decoded from the word at its command input. -/
def State.fetched (s : State) (p : Port) : Option Command :=
  match s.inProgress p with
  | some i => some (.instr i)
  | none => (s.input p).head?.map decode

/-- The state in which the port's micro-step runs: it has the turn, and a word it accepts is taken from its input. -/
def State.atMicroStep (s : State) (p : Port) : State :=
  if s.idle p then (s.giveTurn p).consume p else s.giveTurn p

/-- The agent at the port will present this word after those it is still to present (R80). -/
def State.present (s : State) (p : Port) (w : CmdWord) : State :=
  match p with
  | .w => { s with wIn := s.wIn ++ [w] }
  | .r => { s with rIn := s.rIn ++ [w] }

/-- The word stands first at the port's command input, the port is idle, and the port is named next. -/
def State.presentNext (s : State) (p : Port) (w : CmdWord) : State :=
  match p with
  | .w => { s with wstate := .idle, wIn := w :: s.wIn, sched := p :: s.sched }
  | .r => { s with rstate := .idle, rIn := w :: s.rIn, sched := p :: s.sched }

end Sys2Proof.Machine
end

