-- ==== Sys2Proof/Machine/Framer.lean ====
section
/-! DEFINITION. The framer family: `FRAME` and `CKSUM` (43_framer.md R175 to R181). -/

namespace Sys2Proof.Machine

/-- Micro-step 1 of `FRAME`: the frame carries `seq_next` as it was before the increment (R176). -/
def frameFinish (x : Sample) (s : State) : State :=
  { s with seqNext := incSeq s.seqNext }.respond s.turn (.instr (.frame x)) (respFrame (mkframe s.seqNext x))

/-- `FRAME s` (R175, R176). -/
def execFrame (x : Sample) (s : State) : Host.Outcome State Fault Refusal := twoStep (.frame x) (frameFinish x) s

/-- Micro-step 1 of `CKSUM` (R179). -/
def cksumFinish (b : CkBytes) (s : State) : State :=
  s.respond s.turn (.instr (.cksum b)) (respSum (checksum b))

/-- `CKSUM b` (R179). -/
def execCksum (b : CkBytes) (s : State) : Host.Outcome State Fault Refusal := twoStep (.cksum b) (cksumFinish b) s

end Sys2Proof.Machine
end

