-- ==== Sys2Proof/Machine/ReadPort.lean ====
section
/-! DEFINITION. The read-port family: `POP` (41_read_port.md R130 to R136). -/

namespace Sys2Proof.Machine

/-- Micro-step 1: read the producer's index (R132). -/
def popObserve (s : State) : State :=
  { s.afterObserve .r with rstate := .popObserved (s.observed .r) }

/-- Micro-step 2, no data: `EMPTY`, its payload bits a free value (R133, U2; log entry 4). -/
def popEmpty (s : State) : State :=
  { s with draws := s.draws + 1 }.respond .r (.instr .pop) (respEmpty (Config.emptyPayload s.draws))

/-- Micro-step 2, data: the slot at `read_index` is copied by value (R133). -/
def popLoad (s : State) : State :=
  { s with rstate := .popLoaded (s.slot s.readIndex) }

/-- Micro-step 3: release the slot (R134). -/
def popRelease (d : Frame) (s : State) : State :=
  { s with readIndex := inc s.cfg.N s.readIndex }.respond .r (.instr .pop) (respFrame d)

/-- Micro-step 2: test for data (R133). -/
def popDecide (wObs : Nat) (s : State) : Host.Outcome State Fault Refusal :=
  if available s.cfg.N wObs s.readIndex = 0 then .next (popEmpty s)
  else if s.readIndex < s.cfg.N then .next (popLoad s)
  else .fault .noSuchSlot

/-- `POP`: its next micro-step at the port in turn (R130 to R134); `ILLEGAL` at port W (R94). -/
def execPop (s : State) : Host.Outcome State Fault Refusal :=
  match s.turn with
  | .w => if s.idle .w then .next (s.accept .pop) else .fault .portBusy
  | .r =>
    match s.rstate with
    | .idle => .next (s.accept .pop)
    | .started c => if c = .pop then .next (popObserve s) else .fault .portBusy
    | .popObserved wObs => popDecide wObs s
    | .popLoaded d => .next (popRelease d s)

end Sys2Proof.Machine
end

