-- ==== Sys2Proof/Machine/Status.lean ====
section
/-! DEFINITION. The status family: `AVAIL`, `FREE`, `FLAGS`, `OVFCNT` (42_status.md R150 to R158). -/

namespace Sys2Proof.Machine

/-- Micro-step 1 of `AVAIL` (R151). -/
def availFinish (s : State) : State :=
  (s.afterObserve s.turn).respond s.turn (.instr .avail)
    (respCount s.cfg.W (available s.cfg.N (s.seenWrite s.turn) (s.seenRead s.turn)))

/-- `AVAIL` (R151). -/
def execAvail (s : State) : Host.Outcome State Fault Refusal := twoStep .avail availFinish s

/-- Micro-step 1 of `FREE` (R153). -/
def freeFinish (s : State) : State :=
  (s.afterObserve s.turn).respond s.turn (.instr .free)
    (respCount s.cfg.W (freeSpace s.cfg.N (s.seenWrite s.turn) (s.seenRead s.turn)))

/-- `FREE` (R153). -/
def execFree (s : State) : Host.Outcome State Fault Refusal := twoStep .free freeFinish s

/-- Micro-step 1 of `FLAGS` (R155). -/
def flagsFinish (s : State) : State :=
  (s.afterObserve s.turn).respond s.turn (.instr .flags)
    (respFlags (emptyFlag (s.seenWrite s.turn) (s.seenRead s.turn))
      (fullFlag s.cfg.N (s.seenWrite s.turn) (s.seenRead s.turn)))

/-- `FLAGS` (R155). -/
def execFlags (s : State) : Host.Outcome State Fault Refusal := twoStep .flags flagsFinish s

/-- Micro-step 1 of `OVFCNT`: no `observe`, the counter itself at either port (R157). -/
def ovfcntFinish (s : State) : State :=
  s.respond s.turn (.instr .ovfcnt) (respCount s.cfg.ovfW s.overflowCount)

/-- `OVFCNT` (R157). -/
def execOvfcnt (s : State) : Host.Outcome State Fault Refusal := twoStep .ovfcnt ovfcntFinish s

end Sys2Proof.Machine
end

