-- ==== Sys2Proof/Machine/WritePort.lean ====
section
/-! DEFINITION. The write-port family: `PUSH` (40_write_port.md R110 to R117). -/

namespace Sys2Proof.Machine

/-- Micro-step 1: read the consumer's index (R112). -/
def pushObserve (f : Frame) (s : State) : State :=
  { s.afterObserve .w with wstate := .pushObserved f (s.observed .w) }

/-- Micro-step 2, no room: the frame is dropped and counted (R113). -/
def pushDrop (f : Frame) (s : State) : State :=
  { s with overflowCount := incOverflow s.cfg.ovfW s.overflowCount }.respond .w (.instr (.push f)) respOverflow

/-- Micro-step 2, room: the frame goes into the slot at `write_index`, unpublished (R113). -/
def pushStore (f : Frame) (s : State) : State :=
  { s with slots := Memory.write s.slots s.writeIndex f, wstate := .pushStored f }

/-- Micro-step 3: publish (R114). -/
def pushPublish (f : Frame) (s : State) : State :=
  { s with writeIndex := inc s.cfg.N s.writeIndex }.respond .w (.instr (.push f)) respOk

/-- Micro-step 2: test for room (R113). -/
def pushDecide (f : Frame) (rObs : Nat) (s : State) : Host.Outcome State Fault Refusal :=
  if freeSpace s.cfg.N s.writeIndex rObs = 0 then .next (pushDrop f s)
  else if s.writeIndex < s.cfg.N then .next (pushStore f s)
  else .fault .noSuchSlot

/-- `PUSH f`: its next micro-step at the port in turn (R110 to R114); `ILLEGAL` at port R (R94). -/
def execPush (f : Frame) (s : State) : Host.Outcome State Fault Refusal :=
  match s.turn with
  | .r => if s.idle .r then .next (s.accept (.push f)) else .fault .portBusy
  | .w =>
    match s.wstate with
    | .idle => .next (s.accept (.push f))
    | .started c => if c = .push f then .next (pushObserve f s) else .fault .portBusy
    | .pushObserved g rObs => if g = f then pushDecide f rObs s else .fault .portBusy
    | .pushStored g => if g = f then .next (pushPublish f s) else .fault .portBusy

end Sys2Proof.Machine
end

