-- ==== Sys2Proof/Machine/Dispatch.lean ====
section
/-! DEFINITION. `exec i s`: the next micro-step of command `i` at the port in turn (00_scope.md R14). -/

namespace Sys2Proof.Machine

def exec (i : Instr) (s : State) : Host.Outcome State Fault Refusal :=
  match i with
  | .push f => Sys2Proof.Machine.execPush f s
  | .pop => Sys2Proof.Machine.execPop s
  | .avail => Sys2Proof.Machine.execAvail s
  | .free => Sys2Proof.Machine.execFree s
  | .flags => Sys2Proof.Machine.execFlags s
  | .ovfcnt => Sys2Proof.Machine.execOvfcnt s
  | .frame x => Sys2Proof.Machine.execFrame x s
  | .cksum b => Sys2Proof.Machine.execCksum b s

end Sys2Proof.Machine
end

