-- ==== Sys2Proof/Machine/Step.lean ====
section
/-! DEFINITION. One step of the block is one micro-step of one port (00_scope.md R14, 20_memory.md R59). -/

namespace Sys2Proof.Machine

/-- One step: the port that moves next takes its micro-step, of the command in progress there or of the command it
accepts. With nothing in progress and nothing presented at either port the block waits, unchanged (log entry 7). -/
def step (s : State) : Host.Outcome State Fault Refusal :=
  if s.cfg.ok then
    match s.nextPort with
    | none => .next s
    | some p =>
      match s.fetched p with
      | some (.instr i) => exec i (s.atMicroStep p)
      | some (.reserved op) => .next ((s.atMicroStep p).answerReserved p op)
      | none => .next s
  else .refused .configNotAdmitted

/-- `s` with the command word in the `nbits` bits of `w` presented at the port that admits it, so that the next step
accepts it (log entry 8). -/
def State.withFetchWord (s : State) (nbits w : Nat) : State :=
  let word : CmdWord := BitVec.ofNat 244 (w % 2 ^ nbits)
  s.presentNext (homePort (decode word)) word

end Sys2Proof.Machine
end

