-- ==== Sys2Proof/Machine/Trace.lean ====
section
/-! DEFINITION. The pseudo-operations of a trace (30_encoding.md R99): which commands each stands for, and what its answer
is. They are shorthands of the agents, not commands of the block. -/

namespace Sys2Proof.Machine

/-- The command a pseudo-operation begins with, and the port it is issued at (R99). -/
def pseudoFirst (q : Pseudo) : Port × Instr :=
  match q with
  | .isEmpty p => (p, .flags)
  | .isFull p => (p, .flags)
  | .send s => (.w, .frame s)
  | .drain => (.r, .pop)

/-- The command it goes on with after `last` was answered `x`; none when it has ended: `SEND` pushes the frame built,
`DRAIN` pops until the response is `EMPTY` (R99). -/
def pseudoNext (q : Pseudo) (last : Instr) (x : Response) : Option (Port × Instr) :=
  match q, last with
  | .send _, .frame _ => if x.status = .ok then some (.w, .push (BitVec.ofNat 240 x.payload)) else none
  | .drain, .pop => if x.status = .empty then none else some (.r, .pop)
  | _, _ => none

/-- The bit of the `FLAGS` response that `ISEMPTY` and `ISFULL` read (R99, R155). -/
def pseudoAnswer (q : Pseudo) (x : Response) : Option Bool :=
  match q with
  | .isEmpty _ => some (x.payload.testBit 0)
  | .isFull _ => some (x.payload.testBit 1)
  | .send _ => none
  | .drain => none

end Sys2Proof.Machine
end

