-- ==== Sys2Proof/Safety.lean ====
section
/-! DEFINITION. What claims are stated in: the abstract queue (10_state.md R38), the history of a run, the invariants of
the state (R37), how far a command has come (R35), and the pre-emptive schedule (20_memory.md R60). -/

namespace Sys2Proof.Machine

/-! ### The abstract queue and the history -/

/-- The abstract content of the ring, oldest frame first (R38). -/
def State.queue (s : State) : List Frame :=
  (List.range s.available).map (fun k => s.slot ((s.readIndex + k) % s.cfg.N))

/-- The frame a line of the trace put into the ring: a `PUSH` that ended `OK`. -/
def pushedFrame (l : TraceLine) : Option Frame :=
  match l.cmd, l.resp.status with
  | .instr (.push f), .ok => some f
  | _, _ => none

/-- The frame a line of the trace took out of the ring: a `POP` that ended `OK`, its payload as a frame. -/
def poppedFrame (l : TraceLine) : Option Frame :=
  match l.cmd, l.resp.status with
  | .instr .pop, .ok => some (BitVec.ofNat 240 l.resp.payload)
  | _, _ => none

/-- The frame a line of the trace built: a `FRAME` that ended `OK`. -/
def builtFrame (l : TraceLine) : Option Frame :=
  match l.cmd, l.resp.status with
  | .instr (.frame _), .ok => some (BitVec.ofNat 240 l.resp.payload)
  | _, _ => none

/-- A `PUSH` that ended `OVERFLOW`. -/
def overflowed (l : TraceLine) : Bool :=
  match l.cmd, l.resp.status with
  | .instr (.push _), .overflow => true
  | _, _ => false

/-- The frames the run has put into the ring, in order. -/
def State.pushed (s : State) : List Frame := s.trace.filterMap pushedFrame

/-- The frames the run has taken out of the ring, in order. -/
def State.popped (s : State) : List Frame := s.trace.filterMap poppedFrame

/-- The frames the run has built, in order. -/
def State.built (s : State) : List Frame := s.trace.filterMap builtFrame

/-- The number of frames the run has dropped. -/
def State.dropped (s : State) : Nat := s.trace.countP overflowed

/-- What one answered command does to the atomic queue of a ring of `n` slots (R38, R63): `PUSH` ended `OK` appends, if
there is room; `POP` ended `OK` removes and returns the head; nothing else changes it. -/
def QueueStep (n : Nat) (l : TraceLine) (before after : List Frame) : Prop :=
  match pushedFrame l, poppedFrame l with
  | some f, _ => before.length < n - 1 ∧ after = before ++ [f]
  | none, some d => before = d :: after
  | none, none => after = before

/-- The slot the next micro-step of `PUSH f` stores into, if it stores (R113): `slots[write_index]`, when the command in
progress at port W has observed an index that shows room. -/
def pushStoresAt (f : Frame) (s : State) : Option Nat :=
  match s.turn, s.wstate with
  | .w, .pushObserved g v =>
    if g = f ∧ freeSpace s.cfg.N s.writeIndex v ≠ 0 then some s.writeIndex else none
  | _, _ => none

/-! ### Invariants -/

/-- Every register holds a legal value, the slot array has its form, and a port has only a command in progress that it
admits (R5, R24 to R27, R31 to R36; R37 item 1). -/
structure WellFormedState (s : State) : Prop where
  cfgOk : s.cfg.ok = true
  memWf : Memory.wf s.slots
  slotsInRange : ∀ c ∈ s.slots, c.1 < s.cfg.N
  writeIndexLt : s.writeIndex < s.cfg.N
  readIndexLt : s.readIndex < s.cfg.N
  overflowLt : s.overflowCount < 2 ^ s.cfg.ovfW
  wLastSeenLt : s.wLastSeen < s.cfg.N
  rLastSeenLt : s.rLastSeen < s.cfg.N
  wAdmitted : ∀ i, s.wstate = .started i → admits s.cfg .w i = true
  rAdmitted : ∀ i, s.rstate = .started i → admits s.cfg .r i = true
  rObsLt : ∀ f v, s.wstate = .pushObserved f v → v < s.cfg.N
  wObsLt : ∀ v, s.rstate = .popObserved v → v < s.cfg.N

/-- The invariant of the ring: what R37 items 3 to 5 say of the live window and of a command part way through, and what
keeps an observed index behind the true one and never ahead of it (R61, R62). -/
structure RingInv (s : State) : Prop where
  wf : WellFormedState s
  /-- an index observed by port W shows no more free space than there is -/
  rObsBehind : ∀ f v, s.wstate = .pushObserved f v → s.available ≤ available s.cfg.N s.writeIndex v
  /-- R37 item 3 -/
  stored : ∀ f, s.wstate = .pushStored f →
    inc s.cfg.N s.writeIndex ≠ s.readIndex ∧ Memory.written s.slots s.writeIndex = some f
  /-- an index observed by port R shows no more frames than there are -/
  wObsBehind : ∀ v, s.rstate = .popObserved v → available s.cfg.N v s.readIndex ≤ s.available
  /-- R37 item 5 -/
  loaded : ∀ d, s.rstate = .popLoaded d →
    s.readIndex ≠ s.writeIndex ∧ Memory.written s.slots s.readIndex = some d
  /-- R37 item 4 -/
  liveWritten : ∀ k < s.available, (Memory.written s.slots ((s.readIndex + k) % s.cfg.N)).isSome = true
  /-- with a stale view, each `last_seen` is a value the other index has passed -/
  wSeenBehind : s.cfg.view = .stale → s.available ≤ available s.cfg.N s.writeIndex s.wLastSeen
  rSeenBehind : s.cfg.view = .stale → available s.cfg.N s.rLastSeen s.readIndex ≤ s.available
  wSeenLatest : s.cfg.view = .stale → ∀ f v, s.wstate = .pushObserved f v → v = s.wLastSeen
  rSeenLatest : s.cfg.view = .stale → ∀ v, s.rstate = .popObserved v → v = s.rLastSeen
  wSeenRoom : s.cfg.view = .stale → ∀ f, s.wstate = .pushStored f → inc s.cfg.N s.writeIndex ≠ s.wLastSeen
  rSeenFrame : s.cfg.view = .stale → ∀ d, s.rstate = .popLoaded d → s.rLastSeen ≠ s.readIndex

/-- The history agrees with the ring: what was pushed is what was popped and then what is resident, in order (R37
items 6 and 7, R38), and the counter is the number of frames dropped (R26, R37 item 7). -/
structure HistoryInv (s : State) : Prop where
  fifo : s.pushed = s.popped ++ s.queue
  counted : s.overflowCount = s.dropped % 2 ^ s.cfg.ovfW

/-- The frames built carry the sequence numbers `SEQ_INIT`, `SEQ_INIT + 1`, ... modulo 65536, and `seq_next` is the one
that follows (R27, R176). -/
structure SequenceInv (s : State) : Prop where
  next : s.seqNext = s.cfg.seqInit + BitVec.ofNat 16 s.built.length
  numbered : s.built.map (fun f => (decodeFrame f).sequence)
    = (List.range s.built.length).map (fun k => s.cfg.seqInit + BitVec.ofNat 16 k)

/-! ### Reading the other port's index, as a relation -/

/-- `observe` by port `p` in state `s` may return `v` and leave `t` (R61, R62): the value of the other port's index and
nothing changed, or, with a stale view, any value that index has passed through, recorded in `last_seen`. -/
def Observes (s : State) (p : Port) (v : Nat) (t : State) : Prop :=
  match s.cfg.view with
  | .current => v = s.otherIndex p ∧ t = s
  | .stale => v ∈ passedThrough s.cfg.N (s.lastSeen p) (s.otherIndex p)
      ∧ t = { s.setLastSeen p v with draws := s.draws + 1 }

/-- The write index and the read index port `p` works on when it has observed `v`: its own exactly, the other as
observed (R150). -/
def State.writeSeen (s : State) (p : Port) (v : Nat) : Nat := if p = .w then s.writeIndex else v
def State.readSeen (s : State) (p : Port) (v : Nat) : Nat := if p = .w then v else s.readIndex

/-! ### Commands in progress -/

/-- Both ports idle (R35). -/
def State.quiescent (s : State) : Bool := s.idle .w && s.idle .r

/-- How many micro-steps of its own the command at the port may still need (R35, R277). -/
def State.remaining (s : State) (p : Port) : Nat :=
  match p with
  | .w => match s.wstate with
    | .idle => 0
    | .started (.push _) => 3
    | .started _ => 1
    | .pushObserved _ _ => 2
    | .pushStored _ => 1
  | .r => match s.rstate with
    | .idle => 0
    | .started .pop => 3
    | .started _ => 1
    | .popObserved _ => 2
    | .popLoaded _ => 1

/-- `SCHED_PREEMPT` at one state: while port W has a command in progress, its micro-step is next (R60). -/
def SchedPreempt (s : State) : Prop := s.idle .w = false → s.nextPort = some .w

/-- The registers of R31 and the slot array are the same in both states. -/
def SameRegisters (s t : State) : Prop :=
  t.slots = s.slots ∧ t.writeIndex = s.writeIndex ∧ t.readIndex = s.readIndex ∧ t.overflowCount = s.overflowCount
    ∧ t.seqNext = s.seqNext

/-- The opcodes of R93. -/
def reservedOpcodes : List Nat := [0x0, 0x7, 0xA, 0xB, 0xC, 0xD, 0xE, 0xF]

end Sys2Proof.Machine
end

