-- ==== Sys2Proof/Certificates/Slice0/Obligations.lean ====
section
/-! DEFINITION. The statements for the provers. Each says which rules of spec/ it formalises; where a rule is one the spec
itself derives, or a clause is the model's choice, the docstring says so. -/

open Sys2Proof Sys2Proof.Machine

/-! ### Encoding -/

/-- 30_encoding.md R81 to R84, R92: the encoder and the decoder agree on every command and every operand. Every term of
`Instr` is well formed as syntax, so nothing is assumed of it. -/
def Obligations.DecodeOfEncode : Prop := ∀ i : Instr, decode (encode i) = .instr i

/-- 30_encoding.md R81, R84: a decoded word is the encoding of its command in the bits of that command's own length; the
bits above it play no part (the model's reading of "takes L more bits and nothing more", log entry 11). -/
def Obligations.EncodeOfDecode : Prop :=
  ∀ (w : CmdWord) (i : Instr), decode w = .instr i → (encode i).toNat = w.toNat % 2 ^ wordWidth (opField w)

/-- 30_encoding.md R84, R92, R93: exactly the words with a reserved opcode are no command, and they have 4 bits. -/
def Obligations.ReservedWordsAreNoCommand : Prop :=
  ∀ (w : CmdWord) (op : Opcode),
    (decode w = .reserved op ↔ op = opField w ∧ op.toNat ∈ reservedOpcodes)
      ∧ (op.toNat ∈ reservedOpcodes → wordWidth op = 4)

/-- 95_test_vectors.md sections 1, 2 and 5, 30_encoding.md R82, R83, R92: words the spec writes out, one of each family. -/
def Obligations.SpecWordsDecode : Prop :=
  decode 0x0000000000000000000000000000000000000000000000000000000155aa1#244
      = .instr (.push 0x0000000000000000000000000000000000000000000000000000000155aa#240)
    ∧ decode 0x2#244 = .instr .pop
    ∧ decode 0x6#244 = .instr .ovfcnt
    ∧ decode 0x100000000000000148#244 = .instr (.frame (mkSample 20 0 0 1 0 0 0 0 0))
    ∧ decode 0x0000000700000019fda801f4fe70012cff380064000003e8000255aa9#244
      = .instr (.cksum 0x0000000700000019fda801f4fe70012cff380064000003e8000255aa#224)

/-- 30_encoding.md R88, R89, 43_framer.md R172: byte by byte, where each field of a record lies in the frame. -/
def Obligations.FrameLayout : Prop :=
  ∀ x : SampleFrame, bytesOf 30 (encodeFrame x)
    = [x.header0, x.header1] ++ bytesOf 2 x.sequence ++ bytesOf 4 x.timestamp
      ++ bytesOf 2 x.accelX ++ bytesOf 2 x.accelY ++ bytesOf 2 x.accelZ
      ++ bytesOf 2 x.gyroX ++ bytesOf 2 x.gyroY ++ bytesOf 2 x.gyroZ
      ++ bytesOf 4 x.processTime ++ bytesOf 4 x.priorSendTime ++ [x.checksum, x.padding]

/-- 43_framer.md R172: `decode(encode(rec)) = rec` and `encode(decode(b)) = b` (clauses the spec derives); 00_scope.md R10:
a frame is its 30 bytes and nothing else. -/
def Obligations.FrameCodecInverse : Prop :=
  (∀ x : SampleFrame, decodeFrame (encodeFrame x) = x) ∧ (∀ f : Frame, encodeFrame (decodeFrame f) = f)
    ∧ (∀ f : Frame, ofBytes 240 (bytesOf 30 f) = f)

/-! ### Index arithmetic -/

/-- 10_state.md R28: the counts of any two legal index values, their sum, their range, and that both fit in `W` bits; and
`available` of the true indices is the number of frames resident, those put in and not yet taken out. -/
def Obligations.CountsOfIndices : Prop :=
  (∀ (c : Config) (w r : Nat), c.ok = true → w < c.N → r < c.N →
    (available c.N w r : Int) = ((w : Int) - r) % c.N
      ∧ freeSpace c.N w r = c.N - available c.N w r - 1
      ∧ available c.N w r + freeSpace c.N w r = c.N - 1
      ∧ available c.N w r ≤ c.N - 1 ∧ freeSpace c.N w r ≤ c.N - 1
      ∧ available c.N w r < 2 ^ c.W ∧ freeSpace c.N w r < 2 ^ c.W)
    ∧ ∀ s : State, HistoryInv s → s.pushed.length = s.popped.length + s.available

/-- 10_state.md R29, R30: what `empty` and `full` are, and that they exclude each other (R30's clauses on `inc` and on
exclusion are ones the spec derives). -/
def Obligations.FlagsOfIndices : Prop :=
  ∀ (n w r : Nat), 2 ≤ n → w < n → r < n →
    (emptyFlag w r = true ↔ available n w r = 0)
      ∧ (fullFlag n w r = true ↔ freeSpace n w r = 0)
      ∧ (fullFlag n w r = true ↔ available n w r = n - 1)
      ∧ ¬(emptyFlag w r = true ∧ fullFlag n w r = true)

/-! ### Reset -/

/-- 70_reset_and_hazards.md R260, R261, 10_state.md R24 to R27, R33, R34, R36: the registers after reset, for every
configuration, and for the admitted ones the counts and flags the spec derives from them. What the slots hold is left
unspecified by the spec, and nothing is said of it. -/
def Obligations.ResetRegisters : Prop :=
  ∀ c : Config,
    (State.resetWith c).writeIndex = 0 ∧ (State.resetWith c).readIndex = 0
      ∧ (State.resetWith c).overflowCount = 0 ∧ (State.resetWith c).seqNext = c.seqInit
      ∧ (State.resetWith c).wstate = .idle ∧ (State.resetWith c).rstate = .idle
      ∧ (State.resetWith c).wLastSeen = 0 ∧ (State.resetWith c).rLastSeen = 0
      ∧ (State.resetWith c).quiescent = true
      ∧ (c.ok = true → (State.resetWith c).available = 0 ∧ (State.resetWith c).freeSpace = c.N - 1
          ∧ emptyFlag (State.resetWith c).writeIndex (State.resetWith c).readIndex = true
          ∧ fullFlag c.N (State.resetWith c).writeIndex (State.resetWith c).readIndex = false)

/-- 10_state.md R37, 70_reset_and_hazards.md R260: the state after reset meets the invariants, whatever the
configuration; the trace it starts with is the model's own (log entry 17). -/
def Obligations.ResetMeetsInvariants : Prop :=
  ∀ c : Config, c.ok = true → RingInv (State.resetWith c) ∧ HistoryInv (State.resetWith c)
    ∧ SequenceInv (State.resetWith c)

/-! ### Storage -/

/-- 20_memory.md R50: a slot written reads as what was written, all 240 bits of it; every other slot reads as before;
the listing keeps its canonical form and lists the slot. -/
def Obligations.SlotWriteThenRead : Prop :=
  ∀ (m : Memory) (i : Nat) (v : Frame),
    (∀ j, Memory.read (Memory.write m i v) j = if j = i then v else Memory.read m j)
      ∧ (Memory.wf m → Memory.wf (Memory.write m i v))
      ∧ (∀ j, (Memory.written (Memory.write m i v) j).isSome = (decide (j = i) || (Memory.written m j).isSome))

/-! ### Reading the other port's index -/

/-- 20_memory.md R61, R62: the value `observe` returns is one the rules allow and what it leaves is what they say; with a
stale view every allowed value comes of some depth, so the free value draws from the whole set (log entry 5). -/
def Obligations.ObserveDrawsAllowedValue : Prop :=
  ∀ (s : State) (p : Port), Observes s p (s.observed p) (s.afterObserve p)
    ∧ ∀ n last cur v : Nat, v ∈ passedThrough n last cur ↔ ∃ k, staleValue n last cur k = v

/-- 20_memory.md R61, 42_status.md R152, R154, R156 (all derived by the spec): a port that observes in a state of the ring
is never told of a frame, or of free space, that is not there. -/
def Obligations.ObservedCountsAreSafe : Prop :=
  ∀ s : State, RingInv s →
    available s.cfg.N (s.observed .r) s.readIndex ≤ s.available
      ∧ freeSpace s.cfg.N s.writeIndex (s.observed .w) ≤ s.freeSpace
      ∧ (emptyFlag (s.observed .r) s.readIndex = false → 0 < s.available)
      ∧ (fullFlag s.cfg.N s.writeIndex (s.observed .w) = false → 0 < s.freeSpace)

/-! ### Answering a command -/

/-- 30_encoding.md R86: `respond` puts the status in bits `[1:0]` and the payload above it, returns the response on the
port's output and makes the port idle, and changes nothing else of the ring. With it the four numbers of R87's table,
and the status, `M` and payload R91 gives `PUSH`, `POP`, `FRAME` and `ILLEGAL`. -/
def Obligations.RespondEndsCommand : Prop :=
  (∀ (s : State) (p : Port) (c : Command) (x : Response),
    (s.respond p c x).output p = some x ∧ (s.respond p c x).idle p = true
      ∧ (p = .w → (s.respond p c x).rstate = s.rstate) ∧ (p = .r → (s.respond p c x).wstate = s.wstate)
      ∧ SameRegisters s (s.respond p c x)
      ∧ x.word % 4 = statusCode x.status ∧ x.word / 4 = x.payload ∧ x.width = x.len + 2
      ∧ (x.payload < 2 ^ x.len → x.word < 2 ^ x.width))
    ∧ statusCode .ok = 0b00 ∧ statusCode .overflow = 0b01 ∧ statusCode .empty = 0b10 ∧ statusCode .illegal = 0b11
    ∧ respOk.width = 2 ∧ respOk.word = 0b00
    ∧ respOverflow.width = 2 ∧ respOverflow.word = 0b01
    ∧ respIllegal.width = 2 ∧ respIllegal.word = 0b11
    ∧ (∀ f : Frame, (respFrame f).width = 242 ∧ (respFrame f).word % 4 = 0b00 ∧ (respFrame f).word / 4 = f.toNat
        ∧ (respFrame f).word < 2 ^ 242)
    ∧ (∀ bits : Frame, (respEmpty bits).width = 242 ∧ (respEmpty bits).word % 4 = 0b10
        ∧ (respEmpty bits).word < 2 ^ 242)

/-- 30_encoding.md R80, R85: an idle port in turn takes up a command it admits, and nothing else changes. -/
def Obligations.IdlePortAcceptsCommand : Prop :=
  ∀ (i : Instr) (s : State), s.idle s.turn = true → i.wellFormed s.cfg s.turn = true →
    exec i s = .next (s.setStarted s.turn i) ∧ (s.setStarted s.turn i).startedAt s.turn = some i
      ∧ SameRegisters s (s.setStarted s.turn i)

/-- 30_encoding.md R93: a word with a reserved opcode, at either port, is answered `ILLEGAL` in the micro-step that
accepts it and changes no state. -/
def Obligations.ReservedOpcodeIllegal : Prop :=
  ∀ (s : State) (p : Port) (w : CmdWord) (rest : List CmdWord),
    s.cfg.ok = true → s.nextPort = some p → s.idle p = true → s.input p = w :: rest →
      (opField w).toNat ∈ reservedOpcodes →
      ∃ t, step s = .next t ∧ SameRegisters s t ∧ t.cfg = s.cfg ∧ t.wstate = s.wstate ∧ t.rstate = s.rstate
        ∧ t.wLastSeen = s.wLastSeen ∧ t.rLastSeen = s.rLastSeen
        ∧ t.input p = rest ∧ t.input (otherPort p) = s.input (otherPort p)
        ∧ t.trace = s.trace ++ [{ port := p, cmd := .reserved (opField w), resp := respIllegal }]

/-- 30_encoding.md R94: `PUSH` or `FRAME` at port R, `POP` at port W. -/
def Obligations.WrongPortIllegal : Prop :=
  (∀ (s : State) (f : Frame), s.turn = .r → s.rstate = .idle →
      exec (.push f) s = .next { s with trace := s.trace ++ [⟨.r, .instr (.push f), respIllegal⟩] })
    ∧ (∀ (s : State) (x : Sample), s.turn = .r → s.rstate = .idle →
      exec (.frame x) s = .next { s with trace := s.trace ++ [⟨.r, .instr (.frame x), respIllegal⟩] })
    ∧ (∀ s : State, s.turn = .w → s.wstate = .idle →
      exec .pop s = .next { s with trace := s.trace ++ [⟨.w, .instr .pop, respIllegal⟩] })

/-- 30_encoding.md R95: without a framer, `FRAME` and `CKSUM` at either port. -/
def Obligations.AbsentFramerIllegal : Prop :=
  ∀ (s : State), s.cfg.hasFramer = false → s.idle s.turn = true →
    (∀ x : Sample, exec (.frame x) s
        = .next { s with trace := s.trace ++ [⟨s.turn, .instr (.frame x), respIllegal⟩] })
      ∧ (∀ b : CkBytes, exec (.cksum b) s
        = .next { s with trace := s.trace ++ [⟨s.turn, .instr (.cksum b), respIllegal⟩] })

/-- 60_exceptions.md R233: whatever command is answered `ILLEGAL`, nothing but the answer changes, and the port is idle. -/
def Obligations.IllegalChangesNothing : Prop :=
  ∀ (i : Instr) (s t : State) (l : TraceLine), exec i s = .next t → t.trace = s.trace ++ [l] →
    l.resp.status = .illegal → t = { s with trace := s.trace ++ [l] } ∧ t.idle s.turn = true

/-! ### The step -/

/-- 00_scope.md R14, 20_memory.md R59, 30_encoding.md R80: the port that moves next takes the next micro-step of its command
in progress, or, idle, accepts the command decoded from the word at its input. `giveTurn` and `consume` are the model's
own bookkeeping of the schedule and the inputs (log entries 6 and 8). -/
def Obligations.StepRunsDecodedCommand : Prop :=
  ∀ (s : State) (p : Port) (i : Instr), s.cfg.ok = true → s.nextPort = some p →
    (∀ (w : CmdWord) (rest : List CmdWord), s.idle p = true → s.input p = w :: rest → decode w = .instr i →
        step s = exec i ((s.giveTurn p).consume p) ∧ ((s.giveTurn p).consume p).input p = rest)
      ∧ (s.inProgress p = some i → step s = exec i (s.giveTurn p))
      ∧ (s.giveTurn p).turn = p
      ∧ SameRegisters s (s.giveTurn p) ∧ SameRegisters s ((s.giveTurn p).consume p)

/-- Log entry 8, the model's own: a table word placed in the state is accepted by the very next step, at the port that
admits it. -/
def Obligations.PlacedWordRunsNext : Prop :=
  ∀ (s : State) (nbits v : Nat) (i : Instr), s.cfg.ok = true → decodeTableWord nbits v = some i →
    step (s.withFetchWord nbits v)
      = exec i { s.setIdle (homePort (.instr i)) with turn := homePort (.instr i) }

/-- 00_scope.md R5, 93_implementation_defined.md U5: exactly the configurations the spec does not define are refused. -/
def Obligations.BadConfigurationRefused : Prop :=
  ∀ s : State, (step s = .refused .configNotAdmitted ↔ ¬(2 ≤ s.cfg.N ∧ ∃ k, s.cfg.N = 2 ^ k))

/-- 20_memory.md R59, 93_implementation_defined.md U9: at every state either port that has a micro-step to take can be the
one that takes it, by the schedule; one that has none never is. -/
def Obligations.EitherEnabledPortMayMove : Prop :=
  ∀ (s : State) (p : Port),
    (s.enabled p = true → ({ s with sched := p :: s.sched } : State).nextPort = some p)
      ∧ (s.nextPort = some p → s.enabled p = true)
      ∧ (s.nextPort = none ↔ s.enabled .w = false ∧ s.enabled .r = false)

/-! ### PUSH -/

/-- 40_write_port.md R111: acceptance of a `PUSH` word at port W, and the same word at port R. -/
def Obligations.PushWordAccepted : Prop :=
  ∀ (s : State) (w : CmdWord) (rest : List CmdWord), s.cfg.ok = true → opField w = 0x1#4 →
    (s.nextPort = some .w → s.wstate = .idle → s.wIn = w :: rest →
        step s = .next { s.giveTurn .w with wIn := rest, wstate := .started (.push (w.extractLsb' 4 240)) })
      ∧ (s.nextPort = some .r → s.rstate = .idle → s.rIn = w :: rest →
        step s = .next { s.giveTurn .r with
          rIn := rest,
          trace := s.trace ++ [⟨.r, .instr (.push (w.extractLsb' 4 240)), respIllegal⟩] })

/-- 40_write_port.md R112: micro-step 1 of `PUSH`. -/
def Obligations.PushObservesReadIndex : Prop :=
  ∀ (s : State) (f : Frame), s.turn = .w → s.wstate = .started (.push f) →
    ∃ v t, Observes s .w v t ∧ exec (.push f) s = .next { t with wstate := .pushObserved f v }

/-- 40_write_port.md R113: micro-step 2 of `PUSH`, both branches, and that the slot it writes is outside the live window. -/
def Obligations.PushStoresOrDrops : Prop :=
  ∀ (s : State) (f : Frame) (v : Nat), s.turn = .w → s.wstate = .pushObserved f v →
    s.writeIndex < s.cfg.N → s.readIndex < s.cfg.N → v < s.cfg.N →
    (freeSpace s.cfg.N s.writeIndex v = 0 ↔ inc s.cfg.N s.writeIndex = v)
      ∧ (freeSpace s.cfg.N s.writeIndex v = 0 →
        exec (.push f) s = .next { s with
          overflowCount := (s.overflowCount + 1) % 2 ^ s.cfg.ovfW, wstate := .idle,
          trace := s.trace ++ [⟨.w, .instr (.push f), respOverflow⟩] })
      ∧ (freeSpace s.cfg.N s.writeIndex v ≠ 0 →
        exec (.push f) s = .next { s with
          slots := Memory.write s.slots s.writeIndex f, wstate := .pushStored f })
      ∧ (∀ k < s.available, (s.readIndex + k) % s.cfg.N ≠ s.writeIndex)

/-- 40_write_port.md R114: micro-step 3 of `PUSH`; from then on port R can observe the new index and the frame is the last
of the queue. -/
def Obligations.PushPublishes : Prop :=
  ∀ (s : State) (f : Frame), s.turn = .w → s.wstate = .pushStored f →
    ∃ t, exec (.push f) s = .next t
      ∧ t = { s with
          writeIndex := inc s.cfg.N s.writeIndex, wstate := .idle,
          trace := s.trace ++ [⟨.w, .instr (.push f), respOk⟩] }
      ∧ (s.cfg.view = .current → t.observed .r = inc s.cfg.N s.writeIndex)
      ∧ (RingInv s → t.queue = s.queue ++ [f])

/-- 20_memory.md R50, 10_state.md R22, R31: the frame of `PUSH`. Whatever micro-step it takes, only the slot it stores
into changes, and that one holds the operand byte for byte; `read_index`, `seq_next` and port R's record never change;
each other register changes only in the micro-step that writes it. -/
def Obligations.PushFrame : Prop :=
  ∀ (s t : State) (f : Frame), exec (.push f) s = .next t →
    (∀ a k, pushStoresAt f s ≠ some a → t.slotByte a k = s.slotByte a k)
      ∧ (∀ a k, pushStoresAt f s = some a → t.slotByte a k = byteAt f k)
      ∧ (t.writeIndex ≠ s.writeIndex →
          s.turn = .w ∧ s.wstate = .pushStored f ∧ t.writeIndex = inc s.cfg.N s.writeIndex)
      ∧ (t.overflowCount ≠ s.overflowCount → t.trace = s.trace ++ [⟨.w, .instr (.push f), respOverflow⟩])
      ∧ (t.wLastSeen ≠ s.wLastSeen →
          s.turn = .w ∧ s.wstate = .started (.push f) ∧ s.cfg.view = .stale)
      ∧ t.readIndex = s.readIndex ∧ t.seqNext = s.seqNext ∧ t.rstate = s.rstate ∧ t.rLastSeen = s.rLastSeen

/-- 40_write_port.md R110, R113, R114, 10_state.md R26: a `PUSH` presented at port W, no other port moving in between. With
room it ends `OK` in four steps, the frame in the slot and the index advanced; with the ring full it ends `OVERFLOW` in
three, the frame dropped and counted by exactly 1 modulo `2^OVF_W`. -/
def Obligations.PushRunsToItsEnd : Prop :=
  ∀ (s : State) (f : Frame) (rest : List CmdWord) (order : List Port),
    s.cfg.ok = true → s.cfg.view = .current → s.wstate = .idle → s.wIn = encode (.push f) :: rest →
    (s.sched = .w :: .w :: .w :: .w :: order → s.writeIndex < s.cfg.N → s.freeSpace ≠ 0 →
      Host.Core.run core 4 s = .next { s with
        slots := Memory.write s.slots s.writeIndex f, writeIndex := inc s.cfg.N s.writeIndex,
        wIn := rest, sched := order, turn := .w,
        trace := s.trace ++ [⟨.w, .instr (.push f), respOk⟩] })
    ∧ (s.sched = .w :: .w :: .w :: order → s.freeSpace = 0 →
      Host.Core.run core 3 s = .next { s with
        overflowCount := (s.overflowCount + 1) % 2 ^ s.cfg.ovfW,
        wIn := rest, sched := order, turn := .w,
        trace := s.trace ++ [⟨.w, .instr (.push f), respOverflow⟩] })

/-! ### POP -/

/-- 41_read_port.md R131: acceptance of a `POP` word at port R, and the same word at port W. -/
def Obligations.PopWordAccepted : Prop :=
  ∀ (s : State) (w : CmdWord) (rest : List CmdWord), s.cfg.ok = true → opField w = 0x2#4 →
    (s.nextPort = some .r → s.rstate = .idle → s.rIn = w :: rest →
        step s = .next { s.giveTurn .r with rIn := rest, rstate := .started .pop })
      ∧ (s.nextPort = some .w → s.wstate = .idle → s.wIn = w :: rest →
        step s = .next { s.giveTurn .w with
          wIn := rest, trace := s.trace ++ [⟨.w, .instr .pop, respIllegal⟩] })

/-- 41_read_port.md R132: micro-step 1 of `POP`. -/
def Obligations.PopObservesWriteIndex : Prop :=
  ∀ s : State, s.turn = .r → s.rstate = .started .pop →
    ∃ v t, Observes s .r v t ∧ exec .pop s = .next { t with rstate := .popObserved v }

/-- 41_read_port.md R133: micro-step 2 of `POP`, both branches; the payload of `EMPTY` is some 240 bits; a slot loaded lies
in the live window and has been written by a `PUSH` since reset, and while `read_index` still points at it no `PUSH`
stores into it. -/
def Obligations.PopLoadsOrReportsEmpty : Prop :=
  ∀ (s : State) (v : Nat), s.turn = .r → s.rstate = .popObserved v → s.readIndex < s.cfg.N → v < s.cfg.N →
    (available s.cfg.N v s.readIndex = 0 ↔ v = s.readIndex)
      ∧ (available s.cfg.N v s.readIndex = 0 →
        ∃ bits : Frame, exec .pop s = .next { s with
          rstate := .idle, draws := s.draws + 1,
          trace := s.trace ++ [⟨.r, .instr .pop, respEmpty bits⟩] })
      ∧ (available s.cfg.N v s.readIndex ≠ 0 →
        exec .pop s = .next { s with rstate := .popLoaded (s.slot s.readIndex) })
      ∧ (RingInv s → available s.cfg.N v s.readIndex ≠ 0 →
        0 < s.available ∧ Memory.written s.slots s.readIndex = some (s.slot s.readIndex))
      ∧ (∀ (u : State) (d g : Frame), RingInv u → u.rstate = .popLoaded d → pushStoresAt g u ≠ some u.readIndex)

/-- 41_read_port.md R134: micro-step 3 of `POP`; the frame copied was the head of the queue, and port W can observe the new
index from then on. -/
def Obligations.PopReleases : Prop :=
  ∀ (s : State) (d : Frame), s.turn = .r → s.rstate = .popLoaded d →
    ∃ t, exec .pop s = .next t
      ∧ t = { s with
          readIndex := inc s.cfg.N s.readIndex, rstate := .idle,
          trace := s.trace ++ [⟨.r, .instr .pop, respFrame d⟩] }
      ∧ (s.cfg.view = .current → t.observed .w = inc s.cfg.N s.readIndex)
      ∧ (RingInv s → s.queue = d :: t.queue)

/-- 41_read_port.md R130, 10_state.md R22: the frame of `POP`. No slot changes, no register but `read_index` changes, and
that one only in the micro-step that releases; port W's record never changes, and `r_last_seen_w` only in the micro-step
that observes, with a stale view. -/
def Obligations.PopFrame : Prop :=
  ∀ s t : State, exec .pop s = .next t →
    (∀ a k, t.slotByte a k = s.slotByte a k)
      ∧ t.writeIndex = s.writeIndex ∧ t.overflowCount = s.overflowCount ∧ t.seqNext = s.seqNext
      ∧ t.wLastSeen = s.wLastSeen
      ∧ (t.readIndex ≠ s.readIndex → (∃ d, s.rstate = .popLoaded d) ∧ t.readIndex = inc s.cfg.N s.readIndex)
      ∧ t.wstate = s.wstate
      ∧ (t.rLastSeen ≠ s.rLastSeen → s.turn = .r ∧ s.rstate = .started .pop ∧ s.cfg.view = .stale)

/-- 41_read_port.md R130, R133, R134: a `POP` presented at port R, no other port moving in between. With a frame resident
it ends `OK` in four steps with the frame at `read_index`, and the index advanced; with the ring empty it ends `EMPTY`
in three and changes nothing, its payload some 240 bits (U2, log entry 4). -/
def Obligations.PopRunsToItsEnd : Prop :=
  ∀ (s : State) (rest : List CmdWord) (order : List Port),
    s.cfg.ok = true → s.cfg.view = .current → s.rstate = .idle → s.rIn = encode .pop :: rest →
    (s.sched = .r :: .r :: .r :: .r :: order → s.readIndex < s.cfg.N → s.available ≠ 0 →
      Host.Core.run core 4 s = .next { s with
        readIndex := inc s.cfg.N s.readIndex, rIn := rest, sched := order, turn := .r,
        trace := s.trace ++ [⟨.r, .instr .pop, respFrame (s.slot s.readIndex)⟩] })
    ∧ (s.sched = .r :: .r :: .r :: order → s.available = 0 →
      ∃ bits : Frame, Host.Core.run core 3 s = .next { s with
        rIn := rest, sched := order, turn := .r, draws := s.draws + 1,
        trace := s.trace ++ [⟨.r, .instr .pop, respEmpty bits⟩] })

/-! ### The status commands -/

/-- 42_status.md R151: `AVAIL`, both micro-steps at both ports. -/
def Obligations.AvailAnswersCount : Prop :=
  (∀ w : CmdWord, opField w = 0x3#4 → decode w = .instr .avail)
    ∧ (∀ s : State, s.idle s.turn = true → exec .avail s = .next (s.setStarted s.turn .avail))
    ∧ (∀ s : State, s.startedAt s.turn = some .avail →
      ∃ v t x, Observes s s.turn v t ∧ exec .avail s = .next (t.respond s.turn (.instr .avail) x)
        ∧ x.status = .ok ∧ x.width = s.cfg.W + 2
        ∧ x.word / 4 = available s.cfg.N (s.writeSeen s.turn v) (s.readSeen s.turn v)
        ∧ (s.cfg.ok = true → x.word < 2 ^ x.width))

/-- 42_status.md R153: `FREE`, both micro-steps at both ports, and its value after reset. -/
def Obligations.FreeAnswersSpace : Prop :=
  (∀ w : CmdWord, opField w = 0x4#4 → decode w = .instr .free)
    ∧ (∀ s : State, s.idle s.turn = true → exec .free s = .next (s.setStarted s.turn .free))
    ∧ (∀ s : State, s.startedAt s.turn = some .free →
      ∃ v t x, Observes s s.turn v t ∧ exec .free s = .next (t.respond s.turn (.instr .free) x)
        ∧ x.status = .ok ∧ x.width = s.cfg.W + 2
        ∧ x.word / 4 = freeSpace s.cfg.N (s.writeSeen s.turn v) (s.readSeen s.turn v)
        ∧ (s.cfg.ok = true → x.word < 2 ^ x.width))
    ∧ (∀ c : Config, c.ok = true → (State.resetWith c).freeSpace = c.N - 1)

/-- 42_status.md R155: `FLAGS`, both micro-steps at both ports; bit 2 of the response is `empty`, bit 3 `full`. -/
def Obligations.FlagsAnswersConditions : Prop :=
  (∀ w : CmdWord, opField w = 0x5#4 → decode w = .instr .flags)
    ∧ (∀ s : State, s.idle s.turn = true → exec .flags s = .next (s.setStarted s.turn .flags))
    ∧ (∀ s : State, s.startedAt s.turn = some .flags →
      ∃ v t x, Observes s s.turn v t ∧ exec .flags s = .next (t.respond s.turn (.instr .flags) x)
        ∧ x.status = .ok ∧ x.width = 4 ∧ x.word < 2 ^ 4
        ∧ (x.word.testBit 2 = true ↔ s.writeSeen s.turn v = s.readSeen s.turn v)
        ∧ (x.word.testBit 3 = true ↔ inc s.cfg.N (s.writeSeen s.turn v) = s.readSeen s.turn v))

/-- 42_status.md R157: `OVFCNT`, both micro-steps at both ports, whatever `VIEW` is; it clears nothing. -/
def Obligations.OvfcntAnswersCounter : Prop :=
  (∀ w : CmdWord, opField w = 0x6#4 → decode w = .instr .ovfcnt)
    ∧ (∀ s : State, s.idle s.turn = true → exec .ovfcnt s = .next (s.setStarted s.turn .ovfcnt))
    ∧ (∀ s : State, s.startedAt s.turn = some .ovfcnt →
      ∃ x, exec .ovfcnt s = .next (s.respond s.turn (.instr .ovfcnt) x)
        ∧ x.status = .ok ∧ x.width = s.cfg.ovfW + 2 ∧ x.word / 4 = s.overflowCount
        ∧ (s.overflowCount < 2 ^ s.cfg.ovfW → x.word < 2 ^ x.width))

/-- 20_memory.md R57 (derived by the spec): the frame of the status commands and of `CKSUM`. No slot and no register
changes; the other port's record, down to its micro-step and what it has observed or loaded, is as before; `last_seen`
changes only at the port in turn and only with a stale view. -/
def Obligations.QueriesChangeNoRegister : Prop :=
  ∀ (i : Instr) (s t : State), i = .avail ∨ i = .free ∨ i = .flags ∨ i = .ovfcnt ∨ (∃ b, i = .cksum b) →
    exec i s = .next t →
    SameRegisters s t ∧ (∀ a k, t.slotByte a k = s.slotByte a k)
      ∧ (s.turn = .w → t.rstate = s.rstate) ∧ (s.turn = .r → t.wstate = s.wstate)
      ∧ t.lastSeen (otherPort s.turn) = s.lastSeen (otherPort s.turn)
      ∧ (s.cfg.view = .current ∨ i = .ovfcnt ∨ (∃ b, i = .cksum b) → t.lastSeen s.turn = s.lastSeen s.turn)

/-! ### The framer -/

/-- 43_framer.md R171: the checksum is the sum of the 28 bytes modulo 256. -/
def Obligations.ChecksumIsByteSum : Prop :=
  ∀ b : CkBytes, (checksum b).toNat = ((bytesOf 28 b).map BitVec.toNat).sum % 256

/-- 43_framer.md R181 (derived by the spec): the checksum does not see the order of the bytes, and sees every change of
one byte. -/
def Obligations.ChecksumDetection : Prop :=
  (∀ b c : CkBytes, (bytesOf 28 b).Perm (bytesOf 28 c) → checksum b = checksum c)
    ∧ (∀ (b c : CkBytes) (k : Nat), k < 28 → (∀ j < 28, j ≠ k → byteAt b j = byteAt c j) →
        byteAt b k ≠ byteAt c k → checksum b ≠ checksum c)

/-- 43_framer.md R174: the frame `mkframe` builds, byte by byte, and that it is well formed for every sequence number and
sample (a clause the spec derives). -/
def Obligations.BuiltFrameWellFormed : Prop :=
  ∀ (seq : BitVec 16) (x : Sample),
    wellFormedFrame (mkframe seq x) = true
      ∧ (decodeFrame (mkframe seq x)).sequence = seq ∧ sampleOf (mkframe seq x) = x
      ∧ bytesOf 30 (mkframe seq x)
        = [0xAA#8, 0x55#8] ++ bytesOf 2 seq ++ bytesOf 24 x
          ++ [checksum (frameBody (mkframe seq x)), 0x00#8]

/-- 43_framer.md R176: `FRAME`, both micro-steps: acceptance at port W; then the frame built with `seq_next` as it was,
which advances modulo 65536; the first frame after reset carries `SEQ_INIT` and the `k`-th `SEQ_INIT + k - 1`. -/
def Obligations.FrameBuildsAndCounts : Prop :=
  (∀ w : CmdWord, opField w = 0x8#4 → decode w = .instr (.frame (w.extractLsb' 4 192)))
  ∧ (∀ (s : State) (x : Sample), s.turn = .w → s.wstate = .idle → s.cfg.hasFramer = true →
    exec (.frame x) s = .next { s with wstate := .started (.frame x) })
  ∧ ∀ (s : State) (x : Sample), s.turn = .w → s.wstate = .started (.frame x) → s.cfg.hasFramer = true →
    exec (.frame x) s = .next { s with
        seqNext := s.seqNext + 1#16, wstate := .idle,
        trace := s.trace ++ [⟨.w, .instr (.frame x), respFrame (mkframe s.seqNext x)⟩] }
      ∧ (s.seqNext + 1#16).toNat = (s.seqNext.toNat + 1) % 65536
      ∧ (decodeFrame (mkframe s.seqNext x)).sequence = s.seqNext
      ∧ (SequenceInv s → s.seqNext = s.cfg.seqInit + BitVec.ofNat 16 s.built.length)
      ∧ (∀ c : Config, (State.resetWith c).seqNext = c.seqInit)
      ∧ (respFrame (mkframe s.seqNext x)).word / 4 = (mkframe s.seqNext x).toNat

/-- 43_framer.md R175, 10_state.md R31: the frame of `FRAME`. No slot, no index, no counter of the ring and neither
`last_seen` changes; the other port's record, down to its micro-step and what it has observed or loaded, is as before;
`seq_next` changes only when the command ends `OK`. -/
def Obligations.FrameLeavesRing : Prop :=
  ∀ (s t : State) (x : Sample), exec (.frame x) s = .next t →
    (∀ a k, t.slotByte a k = s.slotByte a k)
      ∧ t.writeIndex = s.writeIndex ∧ t.readIndex = s.readIndex ∧ t.overflowCount = s.overflowCount
      ∧ t.wLastSeen = s.wLastSeen ∧ t.rLastSeen = s.rLastSeen
      ∧ (s.turn = .w → t.rstate = s.rstate) ∧ (s.turn = .r → t.wstate = s.wstate)
      ∧ (t.seqNext ≠ s.seqNext → s.turn = .w ∧ s.wstate = .started (.frame x)
          ∧ t.seqNext = s.seqNext + 1#16)

/-- 43_framer.md R179: `CKSUM`, both micro-steps at both ports; `ILLEGAL` without a framer. -/
def Obligations.CksumAnswersSum : Prop :=
  (∀ w : CmdWord, opField w = 0x9#4 → decode w = .instr (.cksum (w.extractLsb' 4 224)))
    ∧ (∀ (s : State) (b : CkBytes), s.cfg.hasFramer = false → s.idle s.turn = true →
      exec (.cksum b) s = .next (s.respond s.turn (.instr (.cksum b)) respIllegal))
    ∧ (∀ (s : State) (b : CkBytes), s.cfg.hasFramer = true →
      (s.idle s.turn = true → exec (.cksum b) s = .next (s.setStarted s.turn (.cksum b)))
        ∧ (s.startedAt s.turn = some (.cksum b) →
          ∃ x, exec (.cksum b) s = .next (s.respond s.turn (.instr (.cksum b)) x)
            ∧ x.status = .ok ∧ x.width = 10 ∧ x.word / 4 = (checksum b).toNat ∧ x.word < 2 ^ 10))

/-- 10_state.md R27, 43_framer.md R176: whatever step the block takes, the frames built so far stay numbered from
`SEQ_INIT` in order, and `seq_next` stays the number that follows. -/
def Obligations.StepKeepsSequenceNumbers : Prop :=
  ∀ s t : State, SequenceInv s → step s = .next t → SequenceInv t

/-- 30_encoding.md R99: the commands each pseudo-operation expands to, one after the other, at which port, when it ends,
and what it answers; and the commands the spec calls `ISEMPTY` and `ISFULL` equivalent to. -/
def Obligations.PseudoOperationsExpand : Prop :=
  (∀ (p : Port) (x : Response),
      pseudoFirst (.isEmpty p) = (p, .flags) ∧ pseudoNext (.isEmpty p) .flags x = none
        ∧ pseudoFirst (.isFull p) = (p, .flags) ∧ pseudoNext (.isFull p) .flags x = none)
    ∧ (∀ (p : Port) (e f : Bool), pseudoAnswer (.isEmpty p) (respFlags e f) = some e
        ∧ pseudoAnswer (.isFull p) (respFlags e f) = some f)
    ∧ (∀ (p : Port) (n width w r : Nat), 2 ≤ n → w < n → r < n →
      (pseudoAnswer (.isEmpty p) (respFlags (emptyFlag w r) (fullFlag n w r)) = some true
          ↔ (respCount width (available n w r)).payload = 0)
        ∧ (pseudoAnswer (.isFull p) (respFlags (emptyFlag w r) (fullFlag n w r)) = some true
          ↔ (respCount width (freeSpace n w r)).payload = 0))
    ∧ (∀ (x : Sample) (f g : Frame) (y : Response), pseudoFirst (.send x) = (.w, .frame x)
        ∧ pseudoNext (.send x) (.frame x) (respFrame f) = some (.w, .push f)
        ∧ pseudoNext (.send x) (.push g) y = none)
    ∧ pseudoFirst .drain = (.r, .pop)
    ∧ (∀ bits f : Frame, pseudoNext .drain .pop (respEmpty bits) = none
        ∧ pseudoNext .drain .pop (respFrame f) = some (.r, .pop))

/-! ### The whole machine -/

/-- 60_exceptions.md R240, R241: no micro-step of a port writes what the other port owns; `seq_next` and the slots are
written at port W only, `read_index` at port R only. In every state, reachable or not. -/
def Obligations.PortsWriteOnlyTheirOwn : Prop :=
  ∀ (i : Instr) (s t : State), exec i s = .next t →
    (s.turn = .r → t.slots = s.slots ∧ t.writeIndex = s.writeIndex ∧ t.overflowCount = s.overflowCount
        ∧ t.seqNext = s.seqNext ∧ t.wstate = s.wstate ∧ t.wLastSeen = s.wLastSeen)
      ∧ (s.turn = .w → t.readIndex = s.readIndex ∧ t.rstate = s.rstate ∧ t.rLastSeen = s.rLastSeen)

/-- 70_reset_and_hazards.md R265 item 1, 00_scope.md R15 item 2, 30_encoding.md R86: a micro-step never changes the
configuration, the inputs or the schedule, and answers at most one command, at the port in turn, which is then idle. -/
def Obligations.MicroStepAnswersAtMostOnce : Prop :=
  ∀ (i : Instr) (s t : State), exec i s = .next t →
    t.cfg = s.cfg ∧ t.wIn = s.wIn ∧ t.rIn = s.rIn ∧ t.sched = s.sched ∧ t.turn = s.turn
      ∧ (t.trace = s.trace ∨ ∃ x, t.trace = s.trace ++ [⟨s.turn, .instr i, x⟩] ∧ t.idle s.turn = true)

/-- 30_encoding.md R80, 93_implementation_defined.md U4: with every register at a legal value, a command has a step exactly
at a port that is idle or has that very command in progress; at a port busy with another it has none. -/
def Obligations.ExecAnswersUnlessBusy : Prop :=
  ∀ (i : Instr) (s : State), WellFormedState s →
    (s.idle s.turn = true ∨ s.inProgress s.turn = some i → ∃ t, exec i s = .next t)
      ∧ (s.idle s.turn = false → s.inProgress s.turn ≠ some i → exec i s = .fault .portBusy)

/-- 10_state.md R35, 70_reset_and_hazards.md R277 (derived by the spec): a command in progress always has a next micro-step
of its own port, each brings its end nearer, none changes how far the other port's command has come, and no command
needs more than three after its acceptance. -/
def Obligations.EveryCommandEnds : Prop :=
  ∀ (i : Instr) (s : State), WellFormedState s → s.inProgress s.turn = some i →
    s.remaining s.turn ≤ 3
      ∧ ∃ t, exec i s = .next t ∧ t.remaining s.turn < s.remaining s.turn
        ∧ t.remaining (otherPort s.turn) = s.remaining (otherPort s.turn)

/-- 60_exceptions.md R230, R234, R238, 10_state.md R35: from a state with every register at a legal value the block never
stops, and the next state is one such again. -/
def Obligations.StepKeepsWellFormedState : Prop :=
  ∀ s : State, WellFormedState s → ∃ t, step s = .next t ∧ WellFormedState t

/-- 10_state.md R37 items 1 to 5 (derived by the spec), 20_memory.md R61, R62: every step keeps the invariant of the ring,
with either view. -/
def Obligations.StepKeepsRingInvariant : Prop :=
  ∀ s t : State, RingInv s → step s = .next t → RingInv t

/-- 10_state.md R37 items 6 and 7, R38, 41_read_port.md R136 items 5 to 7 (derived by the spec): frames leave the ring in
the order they entered it, bit for bit, none lost and none twice, and `overflow_count` is the number of frames dropped,
modulo `2^OVF_W`. -/
def Obligations.StepKeepsFifoOrder : Prop :=
  ∀ s t : State, RingInv s → HistoryInv s → step s = .next t → HistoryInv t

/-- 10_state.md R38, 20_memory.md R63: every step of the two interleaved ports is a step of the atomic queue of capacity
`N − 1`: a micro-step that answers a command does to the queue what that command does, every other leaves it alone. -/
def Obligations.StepRefinesAtomicQueue : Prop :=
  ∀ s t : State, RingInv s → step s = .next t →
    (t.trace = s.trace ∧ t.queue = s.queue)
      ∨ ∃ l, t.trace = s.trace ++ [l] ∧ QueueStep s.cfg.N l s.queue t.queue

/-- 20_memory.md R63: with the current view a `PUSH` that has observed ends `OVERFLOW` exactly when the ring was full at the
micro-step that observed, whatever port R has done since. -/
def Obligations.OverflowMeansFullAtObservation : Prop :=
  ∀ (s t u v : State) (f : Frame), s.cfg.view = .current → s.turn = .w → s.wstate = .started (.push f) →
    exec (.push f) s = .next t →
    u.cfg = t.cfg → u.wstate = t.wstate → u.writeIndex = t.writeIndex → u.turn = .w →
    exec (.push f) u = .next v →
    (s.freeSpace = 0 ↔ v.trace = u.trace ++ [⟨.w, .instr (.push f), respOverflow⟩])

/-- 20_memory.md R63: with the current view a `POP` that has observed ends `EMPTY` exactly when the ring was empty at the
micro-step that observed, whatever port W has done since. -/
def Obligations.EmptyMeansEmptyAtObservation : Prop :=
  ∀ s t u v : State, s.cfg.view = .current → s.turn = .r → s.rstate = .started .pop → exec .pop s = .next t →
    u.cfg = t.cfg → u.rstate = t.rstate → u.readIndex = t.readIndex → u.turn = .r →
    exec .pop u = .next v →
    (s.available = 0 ↔ ∃ bits : Frame, v.trace = u.trace ++ [⟨.r, .instr .pop, respEmpty bits⟩])

/-- 42_status.md R152, R154, 70_reset_and_hazards.md R269 (derived by the spec): what the other agent does after a port has
looked can only add frames for the consumer and space for the producer. -/
def Obligations.CountsAgeSafely : Prop :=
  ∀ s t : State, RingInv s → step s = .next t →
    (s.nextPort = some .w → s.available ≤ t.available)
      ∧ (s.nextPort = some .r → s.freeSpace ≤ t.freeSpace)

/-- 20_memory.md R60 (derived by the spec): under the schedule of the document's system nothing of port R moves while port W
has a command in progress. -/
def Obligations.PreemptiveScheduleExcludesPortR : Prop :=
  ∀ s t : State, SchedPreempt s → s.idle .w = false → step s = .next t →
    t.turn = .w ∧ t.readIndex = s.readIndex ∧ t.rstate = s.rstate ∧ t.rLastSeen = s.rLastSeen ∧ t.rIn = s.rIn
end

