-- ==== Sys2Proof/Laws/Bits.lean ====
section
/-! SUPPORT. Slices of concatenations: what reading a field of a laid-out frame or command word comes to
(30_encoding.md R89). -/

namespace Sys2Proof.Machine

/-- A slice that lies in the less significant part. -/
theorem extract_append_low {m n : Nat} (x : BitVec m) (y : BitVec n) (a l : Nat) (h : a + l ≤ n) :
    (x ++ y).extractLsb' a l = y.extractLsb' a l := by
  apply BitVec.eq_of_getLsbD_eq
  intro j hj
  simp only [BitVec.getLsbD_extractLsb', BitVec.getLsbD_append]
  simp [show a + j < n by omega]

/-- A slice that lies in the more significant part. -/
theorem extract_append_high {m n : Nat} (x : BitVec m) (y : BitVec n) (a l : Nat) (h : n ≤ a) :
    (x ++ y).extractLsb' a l = x.extractLsb' (a - n) l := by
  apply BitVec.eq_of_getLsbD_eq
  intro j hj
  simp only [BitVec.getLsbD_extractLsb', BitVec.getLsbD_append]
  simp [show ¬ a + j < n by omega, show a + j - n = a - n + j by omega]

/-- A slice of a slice. -/
theorem extract_extract {n : Nat} (x : BitVec n) (a l b m : Nat) (h : b + m ≤ l) :
    (x.extractLsb' a l).extractLsb' b m = x.extractLsb' (a + b) m := by
  apply BitVec.eq_of_getLsbD_eq
  intro j hj
  simp [hj, show b + j < l by omega, Nat.add_assoc]

end Sys2Proof.Machine
end

