-- ==== Sys2Proof/Laws/State.lean ====
section
/-! SUPPORT. What each update of the state does to each field: one lemma a field, so that no proof unfolds an update. -/

namespace Sys2Proof.Machine

variable (s : State)

/-! ### `setIdle` -/

@[simp] theorem State.setIdle_cfg (p : Port) : (s.setIdle p).cfg = s.cfg := by cases p <;> rfl
@[simp] theorem State.setIdle_slots (p : Port) : (s.setIdle p).slots = s.slots := by cases p <;> rfl
@[simp] theorem State.setIdle_writeIndex (p : Port) : (s.setIdle p).writeIndex = s.writeIndex := by cases p <;> rfl
@[simp] theorem State.setIdle_readIndex (p : Port) : (s.setIdle p).readIndex = s.readIndex := by cases p <;> rfl
@[simp] theorem State.setIdle_overflowCount (p : Port) : (s.setIdle p).overflowCount = s.overflowCount := by cases p <;> rfl
@[simp] theorem State.setIdle_seqNext (p : Port) : (s.setIdle p).seqNext = s.seqNext := by cases p <;> rfl
@[simp] theorem State.setIdle_wLastSeen (p : Port) : (s.setIdle p).wLastSeen = s.wLastSeen := by cases p <;> rfl
@[simp] theorem State.setIdle_rLastSeen (p : Port) : (s.setIdle p).rLastSeen = s.rLastSeen := by cases p <;> rfl
@[simp] theorem State.setIdle_wIn (p : Port) : (s.setIdle p).wIn = s.wIn := by cases p <;> rfl
@[simp] theorem State.setIdle_rIn (p : Port) : (s.setIdle p).rIn = s.rIn := by cases p <;> rfl
@[simp] theorem State.setIdle_sched (p : Port) : (s.setIdle p).sched = s.sched := by cases p <;> rfl
@[simp] theorem State.setIdle_turn (p : Port) : (s.setIdle p).turn = s.turn := by cases p <;> rfl
@[simp] theorem State.setIdle_trace (p : Port) : (s.setIdle p).trace = s.trace := by cases p <;> rfl
@[simp] theorem State.setIdle_draws (p : Port) : (s.setIdle p).draws = s.draws := by cases p <;> rfl

/-! ### `setStarted` -/

@[simp] theorem State.setStarted_cfg (p : Port) (i : Instr) : (s.setStarted p i).cfg = s.cfg := by cases p <;> rfl
@[simp] theorem State.setStarted_slots (p : Port) (i : Instr) : (s.setStarted p i).slots = s.slots := by cases p <;> rfl
@[simp] theorem State.setStarted_writeIndex (p : Port) (i : Instr) : (s.setStarted p i).writeIndex = s.writeIndex := by cases p <;> rfl
@[simp] theorem State.setStarted_readIndex (p : Port) (i : Instr) : (s.setStarted p i).readIndex = s.readIndex := by cases p <;> rfl
@[simp] theorem State.setStarted_overflowCount (p : Port) (i : Instr) : (s.setStarted p i).overflowCount = s.overflowCount := by cases p <;> rfl
@[simp] theorem State.setStarted_seqNext (p : Port) (i : Instr) : (s.setStarted p i).seqNext = s.seqNext := by cases p <;> rfl
@[simp] theorem State.setStarted_wLastSeen (p : Port) (i : Instr) : (s.setStarted p i).wLastSeen = s.wLastSeen := by cases p <;> rfl
@[simp] theorem State.setStarted_rLastSeen (p : Port) (i : Instr) : (s.setStarted p i).rLastSeen = s.rLastSeen := by cases p <;> rfl
@[simp] theorem State.setStarted_wIn (p : Port) (i : Instr) : (s.setStarted p i).wIn = s.wIn := by cases p <;> rfl
@[simp] theorem State.setStarted_rIn (p : Port) (i : Instr) : (s.setStarted p i).rIn = s.rIn := by cases p <;> rfl
@[simp] theorem State.setStarted_sched (p : Port) (i : Instr) : (s.setStarted p i).sched = s.sched := by cases p <;> rfl
@[simp] theorem State.setStarted_turn (p : Port) (i : Instr) : (s.setStarted p i).turn = s.turn := by cases p <;> rfl
@[simp] theorem State.setStarted_trace (p : Port) (i : Instr) : (s.setStarted p i).trace = s.trace := by cases p <;> rfl
@[simp] theorem State.setStarted_draws (p : Port) (i : Instr) : (s.setStarted p i).draws = s.draws := by cases p <;> rfl

/-! ### `respond` -/

@[simp] theorem State.respond_cfg (p : Port) (c : Command) (x : Response) : (s.respond p c x).cfg = s.cfg := by cases p <;> rfl
@[simp] theorem State.respond_slots (p : Port) (c : Command) (x : Response) : (s.respond p c x).slots = s.slots := by cases p <;> rfl
@[simp] theorem State.respond_writeIndex (p : Port) (c : Command) (x : Response) : (s.respond p c x).writeIndex = s.writeIndex := by cases p <;> rfl
@[simp] theorem State.respond_readIndex (p : Port) (c : Command) (x : Response) : (s.respond p c x).readIndex = s.readIndex := by cases p <;> rfl
@[simp] theorem State.respond_overflowCount (p : Port) (c : Command) (x : Response) : (s.respond p c x).overflowCount = s.overflowCount := by cases p <;> rfl
@[simp] theorem State.respond_seqNext (p : Port) (c : Command) (x : Response) : (s.respond p c x).seqNext = s.seqNext := by cases p <;> rfl
@[simp] theorem State.respond_wLastSeen (p : Port) (c : Command) (x : Response) : (s.respond p c x).wLastSeen = s.wLastSeen := by cases p <;> rfl
@[simp] theorem State.respond_rLastSeen (p : Port) (c : Command) (x : Response) : (s.respond p c x).rLastSeen = s.rLastSeen := by cases p <;> rfl
@[simp] theorem State.respond_wIn (p : Port) (c : Command) (x : Response) : (s.respond p c x).wIn = s.wIn := by cases p <;> rfl
@[simp] theorem State.respond_rIn (p : Port) (c : Command) (x : Response) : (s.respond p c x).rIn = s.rIn := by cases p <;> rfl
@[simp] theorem State.respond_sched (p : Port) (c : Command) (x : Response) : (s.respond p c x).sched = s.sched := by cases p <;> rfl
@[simp] theorem State.respond_turn (p : Port) (c : Command) (x : Response) : (s.respond p c x).turn = s.turn := by cases p <;> rfl
@[simp] theorem State.respond_draws (p : Port) (c : Command) (x : Response) : (s.respond p c x).draws = s.draws := by cases p <;> rfl

/-! ### `setLastSeen` -/

@[simp] theorem State.setLastSeen_cfg (p : Port) (v : Nat) : (s.setLastSeen p v).cfg = s.cfg := by cases p <;> rfl
@[simp] theorem State.setLastSeen_slots (p : Port) (v : Nat) : (s.setLastSeen p v).slots = s.slots := by cases p <;> rfl
@[simp] theorem State.setLastSeen_writeIndex (p : Port) (v : Nat) : (s.setLastSeen p v).writeIndex = s.writeIndex := by cases p <;> rfl
@[simp] theorem State.setLastSeen_readIndex (p : Port) (v : Nat) : (s.setLastSeen p v).readIndex = s.readIndex := by cases p <;> rfl
@[simp] theorem State.setLastSeen_overflowCount (p : Port) (v : Nat) : (s.setLastSeen p v).overflowCount = s.overflowCount := by cases p <;> rfl
@[simp] theorem State.setLastSeen_seqNext (p : Port) (v : Nat) : (s.setLastSeen p v).seqNext = s.seqNext := by cases p <;> rfl
@[simp] theorem State.setLastSeen_wstate (p : Port) (v : Nat) : (s.setLastSeen p v).wstate = s.wstate := by cases p <;> rfl
@[simp] theorem State.setLastSeen_rstate (p : Port) (v : Nat) : (s.setLastSeen p v).rstate = s.rstate := by cases p <;> rfl
@[simp] theorem State.setLastSeen_wIn (p : Port) (v : Nat) : (s.setLastSeen p v).wIn = s.wIn := by cases p <;> rfl
@[simp] theorem State.setLastSeen_rIn (p : Port) (v : Nat) : (s.setLastSeen p v).rIn = s.rIn := by cases p <;> rfl
@[simp] theorem State.setLastSeen_sched (p : Port) (v : Nat) : (s.setLastSeen p v).sched = s.sched := by cases p <;> rfl
@[simp] theorem State.setLastSeen_turn (p : Port) (v : Nat) : (s.setLastSeen p v).turn = s.turn := by cases p <;> rfl
@[simp] theorem State.setLastSeen_trace (p : Port) (v : Nat) : (s.setLastSeen p v).trace = s.trace := by cases p <;> rfl
@[simp] theorem State.setLastSeen_draws (p : Port) (v : Nat) : (s.setLastSeen p v).draws = s.draws := by cases p <;> rfl

/-! ### `afterObserve` -/

@[simp] theorem State.afterObserve_cfg (p : Port) : (s.afterObserve p).cfg = s.cfg := by
  unfold State.afterObserve; split
  · rfl
  · cases p <;> rfl
@[simp] theorem State.afterObserve_slots (p : Port) : (s.afterObserve p).slots = s.slots := by
  unfold State.afterObserve; split
  · rfl
  · cases p <;> rfl
@[simp] theorem State.afterObserve_writeIndex (p : Port) : (s.afterObserve p).writeIndex = s.writeIndex := by
  unfold State.afterObserve; split
  · rfl
  · cases p <;> rfl
@[simp] theorem State.afterObserve_readIndex (p : Port) : (s.afterObserve p).readIndex = s.readIndex := by
  unfold State.afterObserve; split
  · rfl
  · cases p <;> rfl
@[simp] theorem State.afterObserve_overflowCount (p : Port) : (s.afterObserve p).overflowCount = s.overflowCount := by
  unfold State.afterObserve; split
  · rfl
  · cases p <;> rfl
@[simp] theorem State.afterObserve_seqNext (p : Port) : (s.afterObserve p).seqNext = s.seqNext := by
  unfold State.afterObserve; split
  · rfl
  · cases p <;> rfl
@[simp] theorem State.afterObserve_wstate (p : Port) : (s.afterObserve p).wstate = s.wstate := by
  unfold State.afterObserve; split
  · rfl
  · cases p <;> rfl
@[simp] theorem State.afterObserve_rstate (p : Port) : (s.afterObserve p).rstate = s.rstate := by
  unfold State.afterObserve; split
  · rfl
  · cases p <;> rfl
@[simp] theorem State.afterObserve_wIn (p : Port) : (s.afterObserve p).wIn = s.wIn := by
  unfold State.afterObserve; split
  · rfl
  · cases p <;> rfl
@[simp] theorem State.afterObserve_rIn (p : Port) : (s.afterObserve p).rIn = s.rIn := by
  unfold State.afterObserve; split
  · rfl
  · cases p <;> rfl
@[simp] theorem State.afterObserve_sched (p : Port) : (s.afterObserve p).sched = s.sched := by
  unfold State.afterObserve; split
  · rfl
  · cases p <;> rfl
@[simp] theorem State.afterObserve_turn (p : Port) : (s.afterObserve p).turn = s.turn := by
  unfold State.afterObserve; split
  · rfl
  · cases p <;> rfl
@[simp] theorem State.afterObserve_trace (p : Port) : (s.afterObserve p).trace = s.trace := by
  unfold State.afterObserve; split
  · rfl
  · cases p <;> rfl

/-! ### `giveTurn` -/

@[simp] theorem State.giveTurn_cfg (p : Port) : (s.giveTurn p).cfg = s.cfg := by
  unfold State.giveTurn; split <;> rfl
@[simp] theorem State.giveTurn_slots (p : Port) : (s.giveTurn p).slots = s.slots := by
  unfold State.giveTurn; split <;> rfl
@[simp] theorem State.giveTurn_writeIndex (p : Port) : (s.giveTurn p).writeIndex = s.writeIndex := by
  unfold State.giveTurn; split <;> rfl
@[simp] theorem State.giveTurn_readIndex (p : Port) : (s.giveTurn p).readIndex = s.readIndex := by
  unfold State.giveTurn; split <;> rfl
@[simp] theorem State.giveTurn_overflowCount (p : Port) : (s.giveTurn p).overflowCount = s.overflowCount := by
  unfold State.giveTurn; split <;> rfl
@[simp] theorem State.giveTurn_seqNext (p : Port) : (s.giveTurn p).seqNext = s.seqNext := by
  unfold State.giveTurn; split <;> rfl
@[simp] theorem State.giveTurn_wstate (p : Port) : (s.giveTurn p).wstate = s.wstate := by
  unfold State.giveTurn; split <;> rfl
@[simp] theorem State.giveTurn_rstate (p : Port) : (s.giveTurn p).rstate = s.rstate := by
  unfold State.giveTurn; split <;> rfl
@[simp] theorem State.giveTurn_wLastSeen (p : Port) : (s.giveTurn p).wLastSeen = s.wLastSeen := by
  unfold State.giveTurn; split <;> rfl
@[simp] theorem State.giveTurn_rLastSeen (p : Port) : (s.giveTurn p).rLastSeen = s.rLastSeen := by
  unfold State.giveTurn; split <;> rfl
@[simp] theorem State.giveTurn_wIn (p : Port) : (s.giveTurn p).wIn = s.wIn := by
  unfold State.giveTurn; split <;> rfl
@[simp] theorem State.giveTurn_rIn (p : Port) : (s.giveTurn p).rIn = s.rIn := by
  unfold State.giveTurn; split <;> rfl
@[simp] theorem State.giveTurn_trace (p : Port) : (s.giveTurn p).trace = s.trace := by
  unfold State.giveTurn; split <;> rfl

/-! ### `consume` -/

@[simp] theorem State.consume_cfg (p : Port) : (s.consume p).cfg = s.cfg := by cases p <;> rfl
@[simp] theorem State.consume_slots (p : Port) : (s.consume p).slots = s.slots := by cases p <;> rfl
@[simp] theorem State.consume_writeIndex (p : Port) : (s.consume p).writeIndex = s.writeIndex := by cases p <;> rfl
@[simp] theorem State.consume_readIndex (p : Port) : (s.consume p).readIndex = s.readIndex := by cases p <;> rfl
@[simp] theorem State.consume_overflowCount (p : Port) : (s.consume p).overflowCount = s.overflowCount := by cases p <;> rfl
@[simp] theorem State.consume_seqNext (p : Port) : (s.consume p).seqNext = s.seqNext := by cases p <;> rfl
@[simp] theorem State.consume_wstate (p : Port) : (s.consume p).wstate = s.wstate := by cases p <;> rfl
@[simp] theorem State.consume_rstate (p : Port) : (s.consume p).rstate = s.rstate := by cases p <;> rfl
@[simp] theorem State.consume_wLastSeen (p : Port) : (s.consume p).wLastSeen = s.wLastSeen := by cases p <;> rfl
@[simp] theorem State.consume_rLastSeen (p : Port) : (s.consume p).rLastSeen = s.rLastSeen := by cases p <;> rfl
@[simp] theorem State.consume_sched (p : Port) : (s.consume p).sched = s.sched := by cases p <;> rfl
@[simp] theorem State.consume_turn (p : Port) : (s.consume p).turn = s.turn := by cases p <;> rfl
@[simp] theorem State.consume_trace (p : Port) : (s.consume p).trace = s.trace := by cases p <;> rfl
@[simp] theorem State.consume_draws (p : Port) : (s.consume p).draws = s.draws := by cases p <;> rfl

/-! ### The fields an update writes -/

@[simp] theorem State.setIdle_w_wstate : (s.setIdle .w).wstate = .idle := rfl
@[simp] theorem State.setIdle_w_rstate : (s.setIdle .w).rstate = s.rstate := rfl
@[simp] theorem State.setIdle_r_wstate : (s.setIdle .r).wstate = s.wstate := rfl
@[simp] theorem State.setIdle_r_rstate : (s.setIdle .r).rstate = .idle := rfl
@[simp] theorem State.setStarted_w_wstate (i : Instr) : (s.setStarted .w i).wstate = .started i := rfl
@[simp] theorem State.setStarted_w_rstate (i : Instr) : (s.setStarted .w i).rstate = s.rstate := rfl
@[simp] theorem State.setStarted_r_wstate (i : Instr) : (s.setStarted .r i).wstate = s.wstate := rfl
@[simp] theorem State.setStarted_r_rstate (i : Instr) : (s.setStarted .r i).rstate = .started i := rfl
@[simp] theorem State.respond_w_wstate (c : Command) (x : Response) : (s.respond .w c x).wstate = .idle := rfl
@[simp] theorem State.respond_w_rstate (c : Command) (x : Response) : (s.respond .w c x).rstate = s.rstate := rfl
@[simp] theorem State.respond_r_wstate (c : Command) (x : Response) : (s.respond .r c x).wstate = s.wstate := rfl
@[simp] theorem State.respond_r_rstate (c : Command) (x : Response) : (s.respond .r c x).rstate = .idle := rfl
@[simp] theorem State.respond_trace (p : Port) (c : Command) (x : Response) :
    (s.respond p c x).trace = s.trace ++ [⟨p, c, x⟩] := rfl
@[simp] theorem State.giveTurn_turn (p : Port) : (s.giveTurn p).turn = p := by
  unfold State.giveTurn; split <;> rfl
@[simp] theorem State.giveTurn_sched (p : Port) : (s.giveTurn p).sched = s.sched.tail := by
  unfold State.giveTurn; split <;> simp_all
@[simp] theorem State.consume_w_wIn : (s.consume .w).wIn = s.wIn.tail := rfl
@[simp] theorem State.consume_w_rIn : (s.consume .w).rIn = s.rIn := rfl
@[simp] theorem State.consume_r_wIn : (s.consume .r).wIn = s.wIn := rfl
@[simp] theorem State.consume_r_rIn : (s.consume .r).rIn = s.rIn.tail := rfl

/-! ### `atMicroStep` -/

@[simp] theorem State.atMicroStep_cfg (p : Port) : (s.atMicroStep p).cfg = s.cfg := by
  unfold State.atMicroStep; split <;> simp
@[simp] theorem State.atMicroStep_slots (p : Port) : (s.atMicroStep p).slots = s.slots := by
  unfold State.atMicroStep; split <;> simp
@[simp] theorem State.atMicroStep_writeIndex (p : Port) : (s.atMicroStep p).writeIndex = s.writeIndex := by
  unfold State.atMicroStep; split <;> simp
@[simp] theorem State.atMicroStep_readIndex (p : Port) : (s.atMicroStep p).readIndex = s.readIndex := by
  unfold State.atMicroStep; split <;> simp
@[simp] theorem State.atMicroStep_overflowCount (p : Port) : (s.atMicroStep p).overflowCount = s.overflowCount := by
  unfold State.atMicroStep; split <;> simp
@[simp] theorem State.atMicroStep_seqNext (p : Port) : (s.atMicroStep p).seqNext = s.seqNext := by
  unfold State.atMicroStep; split <;> simp
@[simp] theorem State.atMicroStep_wstate (p : Port) : (s.atMicroStep p).wstate = s.wstate := by
  unfold State.atMicroStep; split <;> simp
@[simp] theorem State.atMicroStep_rstate (p : Port) : (s.atMicroStep p).rstate = s.rstate := by
  unfold State.atMicroStep; split <;> simp
@[simp] theorem State.atMicroStep_wLastSeen (p : Port) : (s.atMicroStep p).wLastSeen = s.wLastSeen := by
  unfold State.atMicroStep; split <;> simp
@[simp] theorem State.atMicroStep_rLastSeen (p : Port) : (s.atMicroStep p).rLastSeen = s.rLastSeen := by
  unfold State.atMicroStep; split <;> simp
@[simp] theorem State.atMicroStep_trace (p : Port) : (s.atMicroStep p).trace = s.trace := by
  unfold State.atMicroStep; split <;> simp
@[simp] theorem State.atMicroStep_turn (p : Port) : (s.atMicroStep p).turn = p := by
  unfold State.atMicroStep; split <;> simp

/-! ### What a port's records say -/

theorem State.idle_w_iff : s.idle .w = true ↔ s.wstate = .idle := by simp [State.idle]
theorem State.idle_r_iff : s.idle .r = true ↔ s.rstate = .idle := by simp [State.idle]

@[simp] theorem State.idle_respond (p : Port) (c : Command) (x : Response) : (s.respond p c x).idle p = true := by
  cases p <;> rfl
@[simp] theorem State.startedAt_setStarted (p : Port) (i : Instr) : (s.setStarted p i).startedAt p = some i := by
  cases p <;> rfl

/-- An idle port's record is left as it was by an answer. -/
theorem State.setIdle_of_idle {p : Port} (h : s.idle p = true) : s.setIdle p = s := by
  obtain ⟨⟩ := s
  cases p <;> simp_all [State.idle, State.setIdle]

theorem State.inProgress_of_idle {p : Port} (h : s.idle p = true) : s.inProgress p = none := by
  cases p
  · simp [State.inProgress, s.idle_w_iff.mp h]
  · simp [State.inProgress, s.idle_r_iff.mp h]

theorem State.idle_of_startedAt {p : Port} {i : Instr} (h : s.startedAt p = some i) : s.idle p = false := by
  cases p
  · cases hw : s.wstate <;> simp_all [State.startedAt, State.idle]
  · cases hr : s.rstate <;> simp_all [State.startedAt, State.idle]

theorem State.startedAt_w_iff {i : Instr} : s.startedAt .w = some i ↔ s.wstate = .started i := by
  cases h : s.wstate <;> simp [State.startedAt, h]
theorem State.startedAt_r_iff {i : Instr} : s.startedAt .r = some i ↔ s.rstate = .started i := by
  cases h : s.rstate <;> simp [State.startedAt, h]

end Sys2Proof.Machine
end

