-- ==== Sys2Proof/Laws/Exec.lean ====
section
/-! SUPPORT. Everything a micro-step can be: one inversion lemma for `exec`, one for accepting a command, one for `step`;
every claim about all commands is a case analysis over these. -/

namespace Sys2Proof.Machine

/-- The ways a micro-step of command `i` takes `s` to `t`. -/
inductive MicroStep : Instr → State → State → Prop where
  | accepted {i s} (idle : s.idle s.turn = true) : MicroStep i s (s.accept i)
  | pushObserved {f s} (turn : s.turn = .w) (at1 : s.wstate = .started (.push f)) :
      MicroStep (.push f) s (pushObserve f s)
  | pushDropped {f s v} (turn : s.turn = .w) (at2 : s.wstate = .pushObserved f v)
      (full : freeSpace s.cfg.N s.writeIndex v = 0) : MicroStep (.push f) s (pushDrop f s)
  | pushStored {f s v} (turn : s.turn = .w) (at2 : s.wstate = .pushObserved f v)
      (room : freeSpace s.cfg.N s.writeIndex v ≠ 0) (range : s.writeIndex < s.cfg.N) :
      MicroStep (.push f) s (pushStore f s)
  | pushPublished {f s} (turn : s.turn = .w) (at3 : s.wstate = .pushStored f) :
      MicroStep (.push f) s (pushPublish f s)
  | popObserved {s} (turn : s.turn = .r) (at1 : s.rstate = .started .pop) : MicroStep .pop s (popObserve s)
  | popWasEmpty {s v} (turn : s.turn = .r) (at2 : s.rstate = .popObserved v)
      (none : available s.cfg.N v s.readIndex = 0) : MicroStep .pop s (popEmpty s)
  | popLoaded {s v} (turn : s.turn = .r) (at2 : s.rstate = .popObserved v)
      (data : available s.cfg.N v s.readIndex ≠ 0) (range : s.readIndex < s.cfg.N) : MicroStep .pop s (popLoad s)
  | popReleased {s d} (turn : s.turn = .r) (at3 : s.rstate = .popLoaded d) : MicroStep .pop s (popRelease d s)
  | availed {s} (at1 : s.startedAt s.turn = some .avail) : MicroStep .avail s (availFinish s)
  | freed {s} (at1 : s.startedAt s.turn = some .free) : MicroStep .free s (freeFinish s)
  | flagged {s} (at1 : s.startedAt s.turn = some .flags) : MicroStep .flags s (flagsFinish s)
  | counted {s} (at1 : s.startedAt s.turn = some .ovfcnt) : MicroStep .ovfcnt s (ovfcntFinish s)
  | framed {x s} (turn : s.turn = .w) (at1 : s.wstate = .started (.frame x)) (unit : s.cfg.hasFramer = true) :
      MicroStep (.frame x) s (frameFinish x s)
  | summed {b s} (at1 : s.startedAt s.turn = some (.cksum b)) (unit : s.cfg.hasFramer = true) :
      MicroStep (.cksum b) s (cksumFinish b s)

theorem twoStep_next {i : Instr} {finish : State → State} {s t : State} (h : twoStep i finish s = .next t) :
    (s.idle s.turn = true ∧ t = s.accept i)
      ∨ (s.startedAt s.turn = some i ∧ admits s.cfg s.turn i = true ∧ t = finish s) := by
  unfold twoStep at h
  split at h
  · next idle => exact .inl ⟨idle, by injection h with h; exact h.symm⟩
  · split at h
    · next at1 => exact .inr ⟨at1.1, at1.2, by injection h with h; exact h.symm⟩
    · cases h

theorem execPush_next {f : Frame} {s t : State} (h : execPush f s = .next t) : MicroStep (.push f) s t := by
  unfold execPush at h
  split at h
  · next turn =>
    split at h
    · next idle => cases h; exact .accepted (turn ▸ idle)
    · cases h
  · next turn =>
    split at h
    · next idle => cases h; exact .accepted (turn ▸ s.idle_w_iff.mpr idle)
    · next at1 =>
      split at h
      · next hc => cases h; exact .pushObserved turn (hc ▸ at1)
      · cases h
    · next at2 =>
      split at h
      · next hg =>
        subst hg
        unfold pushDecide at h
        split at h
        · next full => cases h; exact .pushDropped turn at2 full
        · next room =>
          split at h
          · next range => cases h; exact .pushStored turn at2 room range
          · cases h
      · cases h
    · next at3 =>
      split at h
      · next hg => cases h; exact .pushPublished turn (hg ▸ at3)
      · cases h

theorem execPop_next {s t : State} (h : execPop s = .next t) : MicroStep .pop s t := by
  unfold execPop at h
  split at h
  · next turn =>
    split at h
    · next idle => cases h; exact .accepted (turn ▸ idle)
    · cases h
  · next turn =>
    split at h
    · next idle => cases h; exact .accepted (turn ▸ s.idle_r_iff.mpr idle)
    · next at1 =>
      split at h
      · next hc => cases h; exact .popObserved turn (hc ▸ at1)
      · cases h
    · next at2 =>
      unfold popDecide at h
      split at h
      · next none => cases h; exact .popWasEmpty turn at2 none
      · next data =>
        split at h
        · next range => cases h; exact .popLoaded turn at2 data range
        · cases h
    · next at3 => cases h; exact .popReleased turn at3

/-- If `exec` answers a next state, it took one of these micro-steps. -/
theorem exec_next {i : Instr} {s t : State} (h : exec i s = .next t) : MicroStep i s t := by
  cases i with
  | push f => exact execPush_next h
  | pop => exact execPop_next h
  | avail =>
    rcases twoStep_next h with ⟨idle, rfl⟩ | ⟨at1, -, rfl⟩
    · exact .accepted idle
    · exact .availed at1
  | free =>
    rcases twoStep_next h with ⟨idle, rfl⟩ | ⟨at1, -, rfl⟩
    · exact .accepted idle
    · exact .freed at1
  | flags =>
    rcases twoStep_next h with ⟨idle, rfl⟩ | ⟨at1, -, rfl⟩
    · exact .accepted idle
    · exact .flagged at1
  | ovfcnt =>
    rcases twoStep_next h with ⟨idle, rfl⟩ | ⟨at1, -, rfl⟩
    · exact .accepted idle
    · exact .counted at1
  | frame x =>
    rcases twoStep_next h with ⟨idle, rfl⟩ | ⟨at1, ad, rfl⟩
    · exact .accepted idle
    · simp only [admits, Bool.and_eq_true, beq_iff_eq] at ad
      exact .framed ad.2 (s.startedAt_w_iff.mp (ad.2 ▸ at1)) ad.1
  | cksum b =>
    rcases twoStep_next h with ⟨idle, rfl⟩ | ⟨at1, ad, rfl⟩
    · exact .accepted idle
    · exact .summed at1 ad

/-- A command presented at an idle port is taken up, or answered `ILLEGAL` with nothing else changed. -/
theorem accept_cases (i : Instr) {s : State} (idle : s.idle s.turn = true) :
    (admits s.cfg s.turn i = true ∧ s.accept i = s.setStarted s.turn i)
      ∨ (admits s.cfg s.turn i = false
          ∧ s.accept i = { s with trace := s.trace ++ [⟨s.turn, .instr i, respIllegal⟩] }) := by
  unfold State.accept
  split
  · next h => exact .inl ⟨h, rfl⟩
  · next h => exact .inr ⟨by simpa using h, by rw [State.respond, State.setIdle_of_idle s idle]⟩

/-- If `step` answers a next state, the block waited, answered a reserved opcode, or took a micro-step of a command. -/
theorem step_next {s t : State} (h : step s = .next t) :
    s.cfg.ok = true ∧
      (t = s
        ∨ (∃ p op, s.nextPort = some p ∧ s.idle p = true ∧ t = (s.atMicroStep p).answerReserved p op)
        ∨ (∃ p i, s.nextPort = some p ∧ MicroStep i (s.atMicroStep p) t)) := by
  unfold step at h
  split at h
  · next ok =>
    refine ⟨ok, ?_⟩
    split at h
    · cases h; exact .inl rfl
    · next p hp =>
      split at h
      · next i _ => exact .inr (.inr ⟨p, i, hp, exec_next h⟩)
      · next op hf =>
        cases h
        refine .inr (.inl ⟨p, op, hp, ?_, rfl⟩)
        unfold State.fetched at hf
        split at hf
        · cases hf
        · next none =>
          cases p
          · cases hw : s.wstate <;> simp_all [State.inProgress, State.idle]
          · cases hr : s.rstate <;> simp_all [State.inProgress, State.idle]
      · cases h; exact .inl rfl
  · cases h

end Sys2Proof.Machine
end

