-- ==== Sys2Proof/Laws/Memory.lean ====
section
/-! SUPPORT. The slot array: a write changes its slot and no other, and keeps the listing in its canonical form
(20_memory.md R50). -/

namespace Sys2Proof.Machine

theorem Memory.written_write (m : Memory) (i j : Nat) (v : Frame) :
    Memory.written (Memory.write m i v) j = if i = j then some v else Memory.written m j := by
  induction m with
  | nil => simp [Memory.write, Memory.written]
  | cons c rest ih =>
    obtain ⟨a, u⟩ := c
    simp only [Memory.write]
    split
    · simp [Memory.written]
    · split
      · next h => subst h; by_cases hj : i = j <;> simp [Memory.written, hj]
      · next h =>
        simp only [Memory.written, ih]
        by_cases hj : a = j
        · subst hj; simp [h]
        · simp [hj]

/-- The indices listed after a write are those listed before and the one written. -/
theorem Memory.mem_write {m : Memory} {i : Nat} {v : Frame} {c : Nat × Frame} (h : c ∈ Memory.write m i v) :
    c = (i, v) ∨ c ∈ m := by
  induction m with
  | nil => simpa [Memory.write] using h
  | cons d rest ih =>
    obtain ⟨a, u⟩ := d
    simp only [Memory.write] at h
    split at h
    · simpa using h
    · split at h
      · rcases List.mem_cons.mp h with h | h
        · exact .inl h
        · exact .inr (List.mem_cons_of_mem _ h)
      · rcases List.mem_cons.mp h with h | h
        · exact .inr (h ▸ List.mem_cons_self)
        · exact (ih h).imp id (List.mem_cons_of_mem _)

theorem Memory.write_wf {m : Memory} (h : Memory.wf m) (i : Nat) (v : Frame) : Memory.wf (Memory.write m i v) := by
  induction m with
  | nil => simp [Memory.write, Memory.wf]
  | cons d rest ih =>
    obtain ⟨a, u⟩ := d
    obtain ⟨first, tail⟩ := List.pairwise_cons.mp h
    simp only [Memory.write]
    split
    · next hlt =>
      refine List.pairwise_cons.mpr ⟨fun c hc => ?_, h⟩
      rcases List.mem_cons.mp hc with rfl | hc
      · exact hlt
      · exact Nat.lt_trans hlt (first c hc)
    · split
      · next heq => subst heq; exact List.pairwise_cons.mpr ⟨first, tail⟩
      · next hlt hne =>
        refine List.pairwise_cons.mpr ⟨fun c hc => ?_, ih tail⟩
        rcases Memory.mem_write hc with rfl | hc
        · show a < i; omega
        · exact first c hc

theorem reset_memory_wf (c : Config) : Memory.wf (State.resetWith c).slots := List.Pairwise.nil

/-- A slot reads as what was last written into it, and a write leaves every other slot's reading alone. -/
theorem Memory.read_write (m : Memory) (i j : Nat) (v : Frame) :
    Memory.read (Memory.write m i v) j = if i = j then v else Memory.read m j := by
  simp only [Memory.read, Memory.written_write]
  by_cases h : i = j <;> simp [h]

end Sys2Proof.Machine
end

