-- ==== Sys2Proof/Laws/PerInstr.lean ====
section
/-! SUPPORT. A fact about every command as syntax, one lemma a constructor: its encoding begins with its own opcode and
has no bit above its own length (30_encoding.md R81 to R84, R92). -/

namespace Sys2Proof.Laws.EncodingFits

/-- The word of a command has its opcode in bits `[3:0]` and fits in the length that opcode fixes. -/
def Statement (i : Instr) : Prop :=
  opField (encode i) = opcode i ∧ (encode i).toNat < 2 ^ wordWidth (opcode i)

/-- The opcode stands in the low four bits, whatever the operand. -/
theorem opField_append (x : BitVec 240) (op : Opcode) : opField (x ++ op) = op := by
  apply BitVec.eq_of_getLsbD_eq
  intro k hk
  have low : (x ++ op : BitVec (240 + 4)).getLsbD k = op.getLsbD k := by rw [BitVec.getLsbD_append, if_pos hk]
  simp only [opField, BitVec.getLsbD_extractLsb', hk, Nat.zero_add]
  simpa using low

/-- A word whose operand has `n` bits has `n + 4`. -/
theorem append_lt {x : BitVec 240} {op : Opcode} {n : Nat} (h : x.toNat < 2 ^ n) : (x ++ op).toNat < 2 ^ (n + 4) := by
  have := op.isLt
  rw [BitVec.toNat_append, Nat.shiftLeft_eq, Nat.mul_comm, ← Nat.two_pow_add_eq_or_of_lt this]
  rw [Nat.pow_add]
  omega

theorem push (f : Frame) : Statement (.push f) :=
  ⟨opField_append _ _, append_lt (n := 240) f.isLt⟩
theorem pop : Statement .pop := ⟨opField_append _ _, append_lt (n := 0) (by decide)⟩
theorem avail : Statement .avail := ⟨opField_append _ _, append_lt (n := 0) (by decide)⟩
theorem free : Statement .free := ⟨opField_append _ _, append_lt (n := 0) (by decide)⟩
theorem flags : Statement .flags := ⟨opField_append _ _, append_lt (n := 0) (by decide)⟩
theorem ovfcnt : Statement .ovfcnt := ⟨opField_append _ _, append_lt (n := 0) (by decide)⟩
theorem frame (s : Sample) : Statement (.frame s) :=
  ⟨opField_append _ _, append_lt (n := 192) (by simp [operandBits]; omega)⟩
theorem cksum (b : CkBytes) : Statement (.cksum b) :=
  ⟨opField_append _ _, append_lt (n := 224) (by simp [operandBits]; omega)⟩

end Sys2Proof.Laws.EncodingFits
end

