-- ==== Sys2Proof/Laws/Ring.lean ====
section
/-! SUPPORT. The arithmetic of two indices of a ring of `n` slots (10_state.md R28 to R30), as case distinctions that omega
can use. -/

namespace Sys2Proof.Machine

/-- The count of legal indices without the integers. -/
theorem available_eq_ite {n w r : Nat} (hw : w < n) (hr : r < n) :
    available n w r = if r ≤ w then w - r else w + n - r := by
  unfold available
  split
  · have h : ((w : Int) - r) % n = (w : Int) - r := Int.emod_eq_of_lt (by omega) (by omega)
    omega
  · have h : ((w : Int) - r) % n = (w : Int) - r + n := by
      rw [← Int.add_emod_right]
      exact Int.emod_eq_of_lt (by omega) (by omega)
    omega

/-- A count is never `n` or more. -/
theorem available_lt {n : Nat} (hn : 0 < n) (w r : Nat) : available n w r < n := by
  unfold available
  have := Int.emod_lt_of_pos ((w : Int) - r) (b := n) (by omega)
  have := Int.emod_nonneg ((w : Int) - r) (b := (n : Int)) (by omega)
  omega

/-- The next index of a legal one. -/
theorem inc_eq_ite {n i : Nat} (hi : i < n) : inc n i = if i + 1 = n then 0 else i + 1 := by
  unfold inc
  split
  · next h => rw [h, Nat.mod_self]
  · exact Nat.mod_eq_of_lt (by omega)

theorem inc_lt {n : Nat} (hn : 0 < n) (i : Nat) : inc n i < n := Nat.mod_lt _ hn

/-- An index some places further round the ring. -/
theorem add_mod_eq_ite {n i k : Nat} (hi : i < n) (hk : k < n) :
    (i + k) % n = if i + k < n then i + k else i + k - n := by
  split
  · next h => exact Nat.mod_eq_of_lt h
  · rw [Nat.mod_eq_sub_mod (by omega)]
    exact Nat.mod_eq_of_lt (by omega)

theorem available_eq_zero_iff {n w r : Nat} (hw : w < n) (hr : r < n) : available n w r = 0 ↔ w = r := by
  rw [available_eq_ite hw hr]; split <;> omega

theorem freeSpace_eq_zero_iff {n w r : Nat} (hw : w < n) (hr : r < n) : freeSpace n w r = 0 ↔ inc n w = r := by
  unfold freeSpace
  rw [available_eq_ite hw hr, inc_eq_ite hw]; split_ifs <;> omega

/-- Publishing a frame into a ring with room makes one more available. -/
theorem available_inc_left {n w r : Nat} (hw : w < n) (hr : r < n) (room : inc n w ≠ r) :
    available n (inc n w) r = available n w r + 1 := by
  rw [available_eq_ite (inc_lt (by omega) w) hr, available_eq_ite hw hr]
  rw [inc_eq_ite hw] at room ⊢
  split_ifs at room ⊢ <;> omega

/-- Releasing a frame of a ring that holds one makes one less available. -/
theorem available_inc_right {n w r : Nat} (hw : w < n) (hr : r < n) (data : r ≠ w) :
    available n w (inc n r) + 1 = available n w r := by
  rw [available_eq_ite hw (inc_lt (by omega) r), available_eq_ite hw hr, inc_eq_ite hr]
  split_ifs <;> omega

/-- The index `available` places after `r` is `w`, and none before it is. -/
theorem add_mod_eq_iff {n w r k : Nat} (hw : w < n) (hr : r < n) (hk : k < n) :
    (r + k) % n = w ↔ k = available n w r := by
  rw [add_mod_eq_ite hr hk, available_eq_ite hw hr]; split_ifs <;> omega

/-- A stale value of the index that frees space shows no more free space than there is. -/
theorem available_stale_left {n w last cur k : Nat} (hw : w < n) (hl : last < n) (hc : cur < n)
    (behind : available n w cur ≤ available n w last) :
    available n w cur ≤ available n w (staleValue n last cur k) := by
  unfold staleValue
  have hj : k % (available n cur last + 1) ≤ available n cur last := Nat.le_of_lt_succ (Nat.mod_lt _ (by omega))
  generalize k % (available n cur last + 1) = j at hj
  have := available_lt (by omega : 0 < n) cur last
  rw [available_eq_ite hw (Nat.mod_lt _ (by omega))]
  rw [add_mod_eq_ite hl (by omega)]
  rw [available_eq_ite hc hl] at hj
  rw [available_eq_ite hw hc, available_eq_ite hw hl] at behind
  rw [available_eq_ite hw hc]
  split_ifs at * <;> omega

/-- A stale value of the index that adds frames shows no more frames than there are. -/
theorem available_stale_right {n r last cur k : Nat} (hr : r < n) (hl : last < n) (hc : cur < n)
    (behind : available n last r ≤ available n cur r) :
    available n (staleValue n last cur k) r ≤ available n cur r := by
  unfold staleValue
  have hj : k % (available n cur last + 1) ≤ available n cur last := Nat.le_of_lt_succ (Nat.mod_lt _ (by omega))
  generalize k % (available n cur last + 1) = j at hj
  have := available_lt (by omega : 0 < n) cur last
  rw [available_eq_ite (Nat.mod_lt _ (by omega)) hr]
  rw [add_mod_eq_ite hl (by omega)]
  rw [available_eq_ite hc hl] at hj
  rw [available_eq_ite hl hr, available_eq_ite hc hr] at behind
  rw [available_eq_ite hc hr]
  split_ifs at * <;> omega

theorem staleValue_mem (n last cur k : Nat) : staleValue n last cur k ∈ passedThrough n last cur :=
  List.mem_map.mpr ⟨k % (available n cur last + 1), List.mem_range.mpr (Nat.mod_lt _ (by omega)), rfl⟩

end Sys2Proof.Machine
end

