-- ==== Sys2Proof/Tests/Slice0.lean ====
section
/-! SUPPORT. Tests against the vectors of 95_test_vectors.md and the worked examples of the rules, one step each; the
smoke test of the checks; and, for every statement of Certificates/Slice0/Obligations.lean that has hypotheses, a
concrete state and operands that meet them (`witness_<name>`). -/

namespace Sys2Proof.Tests

open Sys2Proof Sys2Proof.Machine

/-! ### Helpers -/

/-- A quiescent machine of `n` slots, port `p` in turn, at these indices. -/
def machine (n w r : Nat) (p : Port) : State :=
  { State.resetWith { Config.default with N := n } with writeIndex := w, readIndex := r, turn := p }

/-- The next state of an outcome. -/
def next? (o : Host.Outcome State Fault Refusal) : Option State :=
  match o with
  | .next s => some s
  | .fault _ => none
  | .refused _ => none

/-- The word and width of the response an outcome gave last. -/
def answer? (o : Host.Outcome State Fault Refusal) : Option (Nat × Nat) :=
  ((next? o).bind (fun s => s.trace.getLast?)).map (fun l => (l.resp.width, l.resp.word))

/-- Frame S3 (95_test_vectors.md section 1), checksum 0x00 (90_conflicts.md C1). -/
def frameS3 : Frame := 0x0000000000000000000000000000000000000000000000000000000155aa#240

/-- Frame B (95_test_vectors.md section 5) and its sample. -/
def frameB : Frame := 0x0031ffffffff0000010280007fffff000100ffff000189abcdef123455aa#240
def sampleB : Sample := mkSample 0x89ABCDEF#32 1 (-1) 256 (-256) 32767 (-32768) 0x102#32 0xFFFFFFFF#32

/-- Frame D (43_framer.md R183) and its sample. -/
def frameD : Frame := 0x00dc0000000700000019fda801f4fe70012cff380064000003e8000255aa#240
def sampleD : Sample := mkSample 1000 100 (-200) 300 (-400) 500 (-600) 25 7

/-! ### The checks refuse what is ill formed (R5, R85, R95) -/

theorem test_config_one_slot_refused : ({ Config.default with N := 1 } : Config).ok = false := by decide
theorem test_config_zero_slots_refused : ({ Config.default with N := 0 } : Config).ok = false := by decide
theorem test_config_no_power_of_two_refused : ({ Config.default with N := 12 } : Config).ok = false := by decide
theorem test_config_admitted :
    Config.default.ok = true ∧ ({ Config.default with N := 2 } : Config).ok = true := by decide
theorem test_command_wrong_port_ill_formed :
    Instr.wellFormed Config.default .r (.push 0#240) = false ∧ Instr.wellFormed Config.default .w .pop = false
      ∧ Instr.wellFormed Config.default .r (.frame 0#192) = false := by decide
theorem test_command_without_framer_ill_formed :
    Instr.wellFormed { Config.default with hasFramer := false } .r (.cksum 0#224) = false := by decide
theorem test_command_well_formed :
    Instr.wellFormed Config.default .w (.push 0#240) = true ∧ Instr.wellFormed Config.default .r .pop = true := by
  decide
theorem test_memory_out_of_order_ill_formed : ¬ Memory.wf [(2, 0#240), (1, 0#240)] := by decide

/-! ### Decoding: words the spec writes out, or put together from R82, R83 and R92 -/

theorem test_decode_push_s3 :
    decode 0x0000000000000000000000000000000000000000000000000000000155aa1#244 = .instr (.push frameS3) := by decide
theorem test_decode_push_b :
    decode 0x0031ffffffff0000010280007fffff000100ffff000189abcdef123455aa1#244 = .instr (.push frameB) := by decide
theorem test_decode_pop : decode 0x2#244 = .instr .pop := by decide
theorem test_decode_status :
    decode 0x3#244 = .instr .avail ∧ decode 0x4#244 = .instr .free ∧ decode 0x5#244 = .instr .flags
      ∧ decode 0x6#244 = .instr .ovfcnt := by decide
theorem test_decode_frame_b :
    decode 0xffffffff0000010280007fffff000100ffff000189abcdef8#244 = .instr (.frame sampleB) := by decide
theorem test_decode_frame_d :
    decode 0x0000000700000019fda801f4fe70012cff380064000003e88#244 = .instr (.frame sampleD) := by decide
theorem test_decode_cksum_k9 :
    decode 0x0000000700000019fda801f4fe70012cff380064000003e8000255aa9#244
      = .instr (.cksum 0x0000000700000019fda801f4fe70012cff380064000003e8000255aa#224) := by decide
theorem test_decode_reserved :
    decode 0x0#244 = .reserved 0x0#4 ∧ decode 0x7#244 = .reserved 0x7#4 ∧ decode 0xA#244 = .reserved 0xA#4
      ∧ decode 0xF#244 = .reserved 0xF#4 := by decide
theorem test_word_widths :
    wordWidth 0x1#4 = 244 ∧ wordWidth 0x2#4 = 4 ∧ wordWidth 0x8#4 = 196 ∧ wordWidth 0x9#4 = 228 := by decide

/-! ### Codec (43_framer.md R171 to R174, R178, R181, R183) -/

theorem test_mkframe_d : mkframe 2#16 sampleD = frameD := by decide
theorem test_mkframe_s3 : mkframe 1#16 0#192 = frameS3 := by decide
theorem test_frame_b_fields :
    (decodeFrame frameB).sequence = 0x1234#16 ∧ (decodeFrame frameB).timestamp = 0x89ABCDEF#32
      ∧ (decodeFrame frameB).gyroZ = 0x8000#16 ∧ (decodeFrame frameB).processTime = 0x102#32
      ∧ (decodeFrame frameB).checksum = 0x31#8 := by decide
theorem test_bad_checksum_not_well_formed : wellFormedFrame (frameD ^^^ 0x100000000#240) = false := by decide

/-! ### One step of each command -/

/-- W2: room, `write_index = N − 1`. -/
theorem test_push_publish_wraps :
    (next? (exec (.push frameB) { machine 16 15 3 .w with wstate := .pushStored frameB })).map
      (fun s => (s.writeIndex, s.available)) = some (0, 13) := by decide
/-- W7: `N = 2`, `OVF_W = 2`, full, counter at its end; the response is `0b01` in 2 bits (30_encoding.md R87, R91). -/
theorem test_push_drop_counter_wraps :
    (next? (exec (.push frameB) { machine 2 1 0 .w with
        cfg := { Config.default with N := 2, ovfW := 2 }, overflowCount := 3,
        wstate := .pushObserved frameB 0 })).map
      (fun s => (s.overflowCount, s.slots, s.writeIndex, (s.output .w).map (fun x => (x.width, x.word))))
        = some (0, [], 1, some (2, 0b01)) := by decide
/-- R3: `read_index = N − 1`. -/
theorem test_pop_release_wraps :
    (next? (exec .pop { machine 16 2 15 .r with rstate := .popLoaded frameD })).map
      (fun s => (s.readIndex, s.output .r)) = some (0, some (respFrame frameD)) := by decide
/-- 95_test_vectors.md section 3: the response word of `POP` ended `OK` with the S3 frame; 30_encoding.md R87, R91: ended
`EMPTY`, `0b10` in bits `[1:0]` of 242. -/
theorem test_pop_response_words :
    answer? (exec .pop { machine 16 1 0 .r with rstate := .popLoaded frameS3 })
        = some (242, 0x00000000000000000000000000000000000000000000000000000000556a8)
      ∧ (answer? (exec .pop { machine 2 1 1 .r with rstate := .popObserved 1 })).map (fun a => (a.1, a.2 % 4))
        = some (242, 0b10) := by
  refine ⟨by decide, ?_⟩
  simp [answer?, next?, exec, execPop, popDecide, popEmpty, available, machine, State.resetWith, Config.default,
    State.respond, State.setIdle, respEmpty, Response.width, Response.word, statusCode]
/-- R152: `write_index = 2`, `read_index = 14`; response word `0x10` in 6 bits. -/
theorem test_avail_mod_n : answer? (exec .avail { machine 16 2 14 .r with rstate := .started .avail })
    = some (6, 0x10) := by decide
/-- T1: a slot written and not published is not counted. -/
theorem test_avail_before_publish :
    answer? (exec .avail { machine 4 2 1 .r with wstate := .pushStored frameB, rstate := .started .avail })
      = some (4, 4) := by decide
/-- Section 4: reset, `FREE -> OK 15`, response word `0x3C`. -/
theorem test_free_at_reset : answer? (exec .free { machine 16 0 0 .w with wstate := .started .free })
    = some (6, 0x3C) := by decide
/-- T3: a slot copied and not released still counts. -/
theorem test_free_before_release :
    answer? (exec .free { machine 4 0 1 .w with rstate := .popLoaded frameB, wstate := .started .free })
      = some (4, 0) := by decide
/-- R156: reset, response word `0b0100`. -/
theorem test_flags_empty : answer? (exec .flags { machine 16 0 0 .r with rstate := .started .flags })
    = some (4, 0b0100) := by decide
/-- Section 4: `write_index = 7`, `read_index = 8`, response word `0b1000`. -/
theorem test_flags_full : answer? (exec .flags { machine 16 7 8 .w with wstate := .started .flags })
    = some (4, 0b1000) := by decide
/-- Section 4: `OVFCNT -> OK 0xFFFFFFFF` is `0x3FFFFFFFC` in 34 bits. -/
theorem test_ovfcnt_word :
    answer? (exec .ovfcnt { machine 16 0 0 .r with rstate := .started .ovfcnt, overflowCount := 0xFFFFFFFF })
      = some (34, 0x3FFFFFFFC) := by decide
/-- M3: frame B. -/
theorem test_frame_b : (next? (exec (.frame sampleB)
      { machine 16 0 0 .w with wstate := .started (.frame sampleB), seqNext := 0x1234#16 })).map
    (fun s => (s.seqNext, s.output .w)) = some (0x1235#16, some (respFrame frameB)) := by decide
/-- M4: `seq_next` wraps. -/
theorem test_frame_sequence_wraps : (next? (exec (.frame (BitVec.allOnes 192))
      { machine 16 0 0 .w with wstate := .started (.frame (BitVec.allOnes 192)), seqNext := 0xFFFF#16 })).map
    (fun s => (s.seqNext, (s.output .w).map (fun x => byteAt (BitVec.ofNat 240 x.payload) 28)))
      = some (0x0000#16, some 0xE5#8) := by decide
/-- K9: response word `0x370` in 10 bits. -/
theorem test_cksum_d :
    answer? (exec (.cksum (frameBody frameD)) { machine 16 0 0 .r with rstate := .started (.cksum (frameBody frameD)) })
      = some (10, 0x370) := by decide
/-- K2: 28 bytes of `FF`, response word `0x390`. -/
theorem test_cksum_all_ones :
    answer? (exec (.cksum (BitVec.allOnes 224)) { machine 16 0 0 .w with wstate := .started (.cksum (BitVec.allOnes 224)) })
      = some (10, 0x390) := by decide
/-- Section 4: a reserved word is answered `0b11` in 2 bits; W10: so is `PUSH` at port R. -/
theorem test_illegal_answered :
    answer? (step (State.reset.withFetchWord 8 0x7)) = some (2, 3)
      ∧ answer? (exec (.push frameB) (machine 16 0 0 .r)) = some (2, 3) := by decide
/-- From reset with nothing presented the block waits. -/
theorem test_reset_waits : next? (step State.reset) = some State.reset := by decide
/-- A word presented after reset is accepted by the first step. -/
theorem test_first_word_accepted :
    (next? (step (State.reset.withFetchWord 8 0x2))).map (fun s => s.rstate) = some (.started .pop) := by decide

/-! ### States that meet the hypotheses of the statements -/

/-- T1 of section 6, with its history: two frames pushed, one popped, a third stored at slot 2 and not published. -/
def stored : State :=
  { machine 4 2 1 .w with
    slots := [(0, frameS3), (1, frameB), (2, frameD)]
    wstate := .pushStored frameD
    sched := [.w]
    trace := [⟨.w, .instr (.push frameS3), respOk⟩, ⟨.w, .instr (.push frameB), respOk⟩,
      ⟨.r, .instr .pop, respFrame frameS3⟩] }

/-- T3 of section 6: ring full across the wrap, the frame at slot 1 copied and not released. -/
def loaded : State :=
  { machine 4 0 1 .r with
    slots := [(0, frameS3), (1, frameB), (2, frameD), (3, frameB)]
    rstate := .popLoaded frameB
    sched := [.r] }

/-- I2 of section 6: one frame resident, `VIEW = stale`, port R has last seen the ring empty. -/
def lagging : State :=
  { machine 4 1 0 .r with
    cfg := { Config.default with N := 4, view := .stale }
    slots := [(0, frameB)]
    rstate := .started .pop
    rLastSeen := 0
    sched := [.r] }

theorem stored_ring : RingInv stored where
  wf := by
    constructor <;> (try decide) <;> intros <;> simp_all [stored, machine, State.resetWith]
  rObsBehind := by intro f v h; cases h
  stored := by intro f h; cases h; decide
  wObsBehind := by intro v h; cases h
  loaded := by intro d h; cases h
  liveWritten := by decide
  wSeenBehind := by intro h; cases h
  rSeenBehind := by intro h; cases h
  wSeenLatest := by intro h; cases h
  rSeenLatest := by intro h; cases h
  wSeenRoom := by intro h; cases h
  rSeenFrame := by intro h; cases h

theorem loaded_ring : RingInv loaded where
  wf := by
    constructor <;> (try decide) <;> intros <;> simp_all [loaded, machine, State.resetWith]
  rObsBehind := by intro f v h; cases h
  stored := by intro f h; cases h
  wObsBehind := by intro v h; cases h
  loaded := by intro f h; cases h; decide
  liveWritten := by decide
  wSeenBehind := by intro h; cases h
  rSeenBehind := by intro h; cases h
  wSeenLatest := by intro h; cases h
  rSeenLatest := by intro h; cases h
  wSeenRoom := by intro h; cases h
  rSeenFrame := by intro h; cases h

theorem lagging_ring : RingInv lagging where
  wf := by
    constructor <;> (try decide) <;> intros <;> simp_all [lagging, machine, State.resetWith]
    · next h => subst h; decide
  rObsBehind := by intro f v h; cases h
  stored := by intro f h; cases h
  wObsBehind := by intro v h; cases h
  loaded := by intro f h; cases h
  liveWritten := by decide
  wSeenBehind := by intro _; decide
  rSeenBehind := by intro _; decide
  wSeenLatest := by intro _ f v h; cases h
  rSeenLatest := by intro _ v h; cases h
  wSeenRoom := by intro _ f h; cases h
  rSeenFrame := by intro _ d h; cases h

theorem stored_history : HistoryInv stored := ⟨by decide, by decide⟩

/-! ### Witnesses: concrete values that meet the hypotheses of each statement that has any -/

/-- A machine without a framer. -/
def bare (p : Port) : State :=
  { machine 16 0 0 p with cfg := { Config.default with hasFramer := false } }

/-- Both ports have a command waiting; port `p` is named next. -/
def contended (p : Port) : State :=
  { machine 4 1 1 .w with wIn := [encode (.push frameB)], rIn := [encode .pop], sched := [p] }

/-- The ring of `n` slots at these indices, a `PUSH` presented at port W, which the schedule names four times. -/
def pushWaiting (n w r : Nat) : State :=
  { machine n w r .w with wIn := [encode (.push frameB)], sched := [.w, .w, .w, .w] }

/-- The same with a `POP` at port R; a frame lies in slot 15. -/
def popWaiting (n w r : Nat) : State :=
  { machine n w r .r with slots := [(15, frameD)], rIn := [encode .pop], sched := [.r, .r, .r, .r] }

/-- Port W part way through a command, with a word for port R waiting, under the pre-emptive schedule. -/
def preempted : State := { pushWaiting 4 0 0 with wstate := .pushObserved frameB 0, rIn := [encode .pop] }

theorem witness_EncodeOfDecode :
    decode 0x12#244 = .instr .pop ∧ decode (encode (.cksum (BitVec.allOnes 224))) = .instr (.cksum (BitVec.allOnes 224))
      := by decide
theorem witness_ReservedWordsAreNoCommand :
    (0x0#4).toNat ∈ reservedOpcodes ∧ (0xF#4).toNat ∈ reservedOpcodes ∧ (0x9#4).toNat ∉ reservedOpcodes := by decide
theorem witness_CountsOfIndices : ({ Config.default with N := 2 } : Config).ok = true ∧ 1 < 2 ∧ 0 < 2 := by decide
theorem witness_CountsOfIndices_resident : HistoryInv stored ∧ stored.available = 1 := ⟨stored_history, by decide⟩
theorem witness_FlagsOfIndices :
    emptyFlag 1 1 = true ∧ fullFlag 2 1 0 = true ∧ emptyFlag 1 3 = false ∧ fullFlag 4 1 3 = false := by decide
theorem witness_ResetRegisters : ({ Config.default with N := 2, view := .stale } : Config).ok = true := by decide
theorem witness_ResetMeetsInvariants : ({ Config.default with N := 2, seqInit := 0xFFFE#16 } : Config).ok = true := by
  decide
theorem witness_SlotWriteThenRead : Memory.wf [(0, frameB), (3, frameD)] := by decide
/-- A frame is resident and seen at port R; there is room and it is seen at port W; and with a stale view. -/
theorem witness_ObservedCountsAreSafe : RingInv stored ∧ RingInv lagging
    ∧ emptyFlag (stored.observed .r) stored.readIndex = false
    ∧ fullFlag stored.cfg.N stored.writeIndex (stored.observed .w) = false :=
  ⟨stored_ring, lagging_ring, by decide, by decide⟩
theorem witness_RespondEndsCommand :
    (respFrame (BitVec.allOnes 240)).payload < 2 ^ (respFrame (BitVec.allOnes 240)).len
      ∧ respOk.payload < 2 ^ respOk.len := by decide
theorem witness_IdlePortAcceptsCommand :
    (machine 16 0 0 .r).idle .r = true ∧ Instr.wellFormed (machine 16 0 0 .r).cfg .r .pop = true
      ∧ Instr.wellFormed (machine 16 0 0 .w).cfg .w (.frame sampleB) = true := by decide
theorem witness_ReservedOpcodeIllegal :
    (State.reset.presentNext .w 0x0#244).nextPort = some .w ∧ (State.reset.presentNext .r 0xF#244).nextPort = some .r
      ∧ (State.reset.presentNext .r 0xF#244).idle .r = true
      ∧ (State.reset.presentNext .r 0xF#244).input .r = 0xF#244 :: []
      ∧ (opField 0xF#244).toNat ∈ reservedOpcodes ∧ (opField 0x0#244).toNat ∈ reservedOpcodes := by decide
theorem witness_WrongPortIllegal :
    (machine 16 0 0 .r).turn = .r ∧ (machine 16 0 0 .r).rstate = .idle
      ∧ (machine 16 0 0 .w).turn = .w ∧ (machine 16 0 0 .w).wstate = .idle := by decide
theorem witness_AbsentFramerIllegal :
    (bare .w).cfg.hasFramer = false ∧ (bare .w).idle (bare .w).turn = true
      ∧ (bare .r).cfg.hasFramer = false ∧ (bare .r).idle (bare .r).turn = true := by decide
theorem witness_IllegalChangesNothing : ∃ t, exec .pop (machine 16 0 0 .w) = .next t
    ∧ t.trace = (machine 16 0 0 .w).trace ++ [⟨.w, .instr .pop, respIllegal⟩] ∧ respIllegal.status = .illegal :=
  ⟨_, rfl, rfl, rfl⟩
/-- Port R idle with a word waiting; port W with a command in progress. -/
theorem witness_StepRunsDecodedCommand :
    (contended .r).cfg.ok = true ∧ (contended .r).nextPort = some .r ∧ (contended .r).idle .r = true
      ∧ (contended .r).input .r = encode .pop :: [] ∧ decode (encode .pop) = .instr .pop
      ∧ stored.cfg.ok = true ∧ stored.nextPort = some .w ∧ stored.inProgress .w = some (.push frameD) := by decide
theorem witness_PlacedWordRunsNext :
    stored.cfg.ok = true ∧ decodeTableWord 8 0x12 = some .pop ∧ decodeTableWord 248 0x11 = some (.push 1#240) := by
  decide
/-- Both ports can move, and the schedule names the one or the other. -/
theorem witness_EitherEnabledPortMayMove :
    (contended .w).enabled .w = true ∧ (contended .w).enabled .r = true
      ∧ (contended .w).nextPort = some .w ∧ (contended .r).nextPort = some .r ∧ State.reset.nextPort = none := by decide
theorem witness_PushWordAccepted :
    opField (encode (.push frameB)) = 0x1#4
      ∧ (pushWaiting 16 0 0).nextPort = some .w ∧ (pushWaiting 16 0 0).wstate = .idle
      ∧ (pushWaiting 16 0 0).wIn = encode (.push frameB) :: [] ∧ (pushWaiting 16 0 0).cfg.ok = true
      ∧ (State.reset.presentNext .r (encode (.push frameB))).nextPort = some .r := by decide
theorem witness_PushObservesReadIndex :
    ({ machine 16 0 0 .w with wstate := .started (.push frameB) } : State).turn = .w
      ∧ ({ machine 16 0 0 .w with wstate := .started (.push frameB) } : State).wstate = .started (.push frameB) := by
  decide
/-- `stored` one micro-step earlier, with room; and the two branches at the ends of the range. -/
theorem witness_PushStoresOrDrops :
    ({ stored with wstate := .pushObserved frameD 1 } : State).turn = .w ∧ stored.writeIndex < stored.cfg.N
      ∧ stored.readIndex < stored.cfg.N ∧ 1 < stored.cfg.N ∧ 0 < stored.available
      ∧ freeSpace stored.cfg.N stored.writeIndex 1 ≠ 0
      ∧ freeSpace (machine 2 1 0 .w).cfg.N (machine 2 1 0 .w).writeIndex 0 = 0
      ∧ freeSpace (machine 2 1 1 .w).cfg.N (machine 2 1 1 .w).writeIndex 1 ≠ 0
      ∧ freeSpace (machine 16 15 0 .w).cfg.N (machine 16 15 0 .w).writeIndex 0 = 0
      ∧ freeSpace (machine 16 15 1 .w).cfg.N (machine 16 15 1 .w).writeIndex 1 ≠ 0 := by decide
theorem witness_PushPublishes :
    stored.turn = .w ∧ stored.wstate = .pushStored frameD ∧ stored.cfg.view = .current ∧ RingInv stored :=
  ⟨by decide, by decide, by decide, stored_ring⟩
/-- The micro-step that stores, the one that publishes, the one that drops, and a stale observation. -/
theorem witness_PushFrame :
    (∃ t, exec (.push frameB) { machine 16 15 3 .w with wstate := .pushObserved frameB 3 } = .next t)
      ∧ pushStoresAt frameB { machine 16 15 3 .w with wstate := .pushObserved frameB 3 } = some 15
      ∧ (∃ t, exec (.push frameD) stored = .next t ∧ t.writeIndex ≠ stored.writeIndex)
      ∧ (∃ t, exec (.push frameB) { machine 2 1 0 .w with wstate := .pushObserved frameB 0 } = .next t
          ∧ t.overflowCount ≠ 0) :=
  ⟨⟨_, rfl⟩, by decide, ⟨_, rfl, by decide⟩, ⟨_, rfl, by decide⟩⟩
/-- Room at the top slot, and no room. -/
theorem witness_PushRunsToItsEnd :
    (pushWaiting 16 15 3).cfg.ok = true ∧ (pushWaiting 16 15 3).cfg.view = .current
      ∧ (pushWaiting 16 15 3).wIn = encode (.push frameB) :: [] ∧ (pushWaiting 16 15 3).freeSpace ≠ 0
      ∧ (pushWaiting 16 15 3).sched = .w :: .w :: .w :: .w :: []
      ∧ (pushWaiting 16 15 0).freeSpace = 0 ∧ (pushWaiting 16 15 0).sched = .w :: .w :: .w :: [.w] := by decide
theorem witness_PopWordAccepted :
    opField (encode .pop) = 0x2#4
      ∧ (popWaiting 16 0 15).nextPort = some .r ∧ (popWaiting 16 0 15).rstate = .idle
      ∧ (popWaiting 16 0 15).rIn = encode .pop :: [] ∧ (popWaiting 16 0 15).cfg.ok = true
      ∧ (State.reset.presentNext .w (encode .pop)).nextPort = some .w := by decide
theorem witness_PopObservesWriteIndex : lagging.turn = .r ∧ lagging.rstate = .started .pop := by decide
/-- The same state of the ring seen with a frame and seen empty (a stale view). -/
theorem witness_PopLoadsOrReportsEmpty :
    ({ machine 2 1 0 .r with rstate := .popObserved 1 } : State).turn = .r ∧ (machine 2 1 0 .r).readIndex < 2
      ∧ available (machine 2 1 0 .r).cfg.N 1 (machine 2 1 0 .r).readIndex ≠ 0
      ∧ available (machine 2 1 0 .r).cfg.N 0 (machine 2 1 0 .r).readIndex = 0
      ∧ available (machine 16 0 15 .r).cfg.N 0 (machine 16 0 15 .r).readIndex ≠ 0 := by decide
/-- The clause of that statement about the live window: port R of `stored` about to load. -/
theorem witness_PopLoadsOrReportsEmpty_live : RingInv { stored with turn := .r, rstate := .popObserved 2 } where
  wf := by
    constructor <;> (try decide) <;> intros <;> simp_all [stored, machine, State.resetWith]
    · next h => subst h; decide
  rObsBehind := by intro f v h; cases h
  stored := by intro f h; cases h; decide
  wObsBehind := by intro v h; cases h; decide
  loaded := by intro d h; cases h
  liveWritten := by decide
  wSeenBehind := by intro h; cases h
  rSeenBehind := by intro h; cases h
  wSeenLatest := by intro h; cases h
  rSeenLatest := by intro h; cases h
  wSeenRoom := by intro h; cases h
  rSeenFrame := by intro h; cases h
theorem witness_PopReleases :
    loaded.turn = .r ∧ loaded.rstate = .popLoaded frameB ∧ loaded.cfg.view = .current ∧ RingInv loaded :=
  ⟨by decide, by decide, by decide, loaded_ring⟩
theorem witness_PopFrame :
    (∃ t, exec .pop loaded = .next t ∧ t.readIndex ≠ loaded.readIndex) ∧ (∃ t, exec .pop lagging = .next t) :=
  ⟨⟨_, rfl, by decide⟩, ⟨_, rfl⟩⟩
/-- A frame at the top slot, and an empty ring. -/
theorem witness_PopRunsToItsEnd :
    (popWaiting 16 0 15).cfg.ok = true ∧ (popWaiting 16 0 15).cfg.view = .current
      ∧ (popWaiting 16 0 15).rIn = encode .pop :: [] ∧ (popWaiting 16 0 15).available ≠ 0
      ∧ (popWaiting 16 0 15).sched = .r :: .r :: .r :: .r :: []
      ∧ (popWaiting 16 0 0).available = 0 ∧ (popWaiting 16 0 0).sched = .r :: .r :: .r :: [.r] := by decide
theorem witness_AvailAnswersCount :
    opField 0x3#244 = 0x3#4 ∧ (machine 2 1 0 .w).idle .w = true
      ∧ ({ machine 2 1 0 .r with rstate := .started .avail } : State).startedAt .r = some .avail
      ∧ ({ machine 2 1 0 .w with wstate := .started .avail } : State).startedAt .w = some .avail := by decide
theorem witness_FreeAnswersSpace :
    opField 0x4#244 = 0x4#4 ∧ (machine 2 1 0 .r).idle .r = true
      ∧ ({ machine 2 1 0 .r with rstate := .started .free } : State).startedAt .r = some .free
      ∧ ({ machine 2 1 0 .w with wstate := .started .free } : State).startedAt .w = some .free := by decide
theorem witness_FlagsAnswersConditions :
    opField 0x5#244 = 0x5#4 ∧ (machine 2 1 0 .r).idle .r = true
      ∧ ({ machine 2 1 0 .r with rstate := .started .flags } : State).startedAt .r = some .flags
      ∧ ({ machine 2 1 0 .w with wstate := .started .flags } : State).startedAt .w = some .flags := by decide
theorem witness_OvfcntAnswersCounter :
    opField 0x6#244 = 0x6#4 ∧ (machine 2 1 0 .r).idle .r = true
      ∧ ({ machine 2 1 0 .r with rstate := .started .ovfcnt } : State).startedAt .r = some .ovfcnt
      ∧ (machine 2 1 0 .r).overflowCount < 2 ^ (machine 2 1 0 .r).cfg.ovfW := by decide
theorem witness_QueriesChangeNoRegister :
    (∃ t, exec .avail { stored with turn := .r, rstate := .started .avail } = .next t)
      ∧ (∃ t, exec .free { lagging with rstate := .started .free } = .next t)
      ∧ (∃ t, exec (.cksum 0#224) { machine 4 2 1 .w with wstate := .started (.cksum 0#224) } = .next t) :=
  ⟨⟨_, rfl⟩, ⟨_, rfl⟩, ⟨_, rfl⟩⟩
/-- Two byte strings in another order, and two that differ in byte 27 alone. -/
theorem witness_ChecksumDetection :
    (bytesOf 28 0x0102#224).Perm (bytesOf 28 0x0201#224)
      ∧ (∀ j < 28, j ≠ 27 → byteAt (BitVec.allOnes 224) j = byteAt (0xFE#8 ++ BitVec.allOnes 216 : BitVec 224) j)
      ∧ byteAt (BitVec.allOnes 224) 27 ≠ byteAt (0xFE#8 ++ BitVec.allOnes 216 : BitVec 224) 27 := by decide
theorem witness_FrameBuildsAndCounts :
    ({ machine 16 0 0 .w with wstate := .started (.frame sampleD) } : State).turn = .w
      ∧ ({ machine 16 0 0 .w with wstate := .started (.frame sampleD) } : State).wstate = .started (.frame sampleD)
      ∧ (machine 16 0 0 .w).cfg.hasFramer = true ∧ (machine 16 0 0 .w).wstate = .idle
      ∧ opField 0x8#244 = 0x8#4 := by decide
theorem witness_FrameLeavesRing :
    ∃ t, exec (.frame sampleD) { stored with wstate := .started (.frame sampleD) } = .next t
      ∧ t.seqNext ≠ stored.seqNext := ⟨_, rfl, by decide⟩
theorem witness_CksumAnswersSum :
    opField 0x9#244 = 0x9#4 ∧ (machine 16 0 0 .r).cfg.hasFramer = true ∧ (machine 16 0 0 .r).idle .r = true
      ∧ ({ machine 16 0 0 .r with rstate := .started (.cksum 0#224) } : State).startedAt .r = some (.cksum 0#224)
      ∧ ({ machine 16 0 0 .w with wstate := .started (.cksum 0#224) } : State).startedAt .w = some (.cksum 0#224) := by
  decide
theorem witness_StepKeepsSequenceNumbers :
    SequenceInv { State.reset with
      seqNext := 1#16, trace := [⟨.w, .instr (.frame 0#192), respFrame (mkframe 0#16 0#192)⟩],
      wstate := .started (.frame sampleB), sched := [.w] } := ⟨by decide, by decide⟩
/-- Legal indices at the ends of the range: empty, and full. -/
theorem witness_PseudoOperationsExpand :
    2 ≤ 2 ∧ 1 < 2 ∧ 0 < 2 ∧ emptyFlag 1 1 = true ∧ available 2 1 1 = 0 ∧ fullFlag 2 1 0 = true ∧ freeSpace 2 1 0 = 0 := by
  decide
theorem witness_PortsWriteOnlyTheirOwn :
    (∃ t, exec .pop loaded = .next t) ∧ loaded.turn = .r ∧ (∃ t, exec (.push frameD) stored = .next t)
      ∧ stored.turn = .w := ⟨⟨_, rfl⟩, rfl, ⟨_, rfl⟩, rfl⟩
theorem witness_MicroStepAnswersAtMostOnce :
    (∃ t, exec .pop loaded = .next t ∧ t.trace ≠ loaded.trace) ∧ (∃ t, exec .pop lagging = .next t ∧ t.trace = []) :=
  ⟨⟨_, rfl, by decide⟩, ⟨_, rfl, rfl⟩⟩
/-- An idle port, a port with this very command in progress, and a port busy with another. -/
theorem witness_ExecAnswersUnlessBusy :
    WellFormedState stored ∧ stored.inProgress stored.turn = some (.push frameD)
      ∧ stored.idle stored.turn = false ∧ stored.inProgress stored.turn ≠ some .avail
      ∧ WellFormedState { stored with turn := .r } ∧ ({ stored with turn := .r } : State).idle .r = true := by
  refine ⟨stored_ring.wf, by decide, by decide, by decide, ?_, by decide⟩
  constructor <;> (try decide) <;> intros <;> simp_all [stored, machine, State.resetWith]
theorem witness_EveryCommandEnds :
    WellFormedState lagging ∧ lagging.inProgress lagging.turn = some .pop ∧ lagging.remaining .r = 3 :=
  ⟨lagging_ring.wf, by decide, by decide⟩
theorem witness_StepKeepsWellFormedState : WellFormedState loaded := loaded_ring.wf
theorem witness_StepKeepsRingInvariant :
    (∃ t, RingInv stored ∧ step stored = .next t) ∧ (∃ t, RingInv loaded ∧ step loaded = .next t) :=
  ⟨⟨_, stored_ring, rfl⟩, ⟨_, loaded_ring, rfl⟩⟩
theorem witness_StepKeepsFifoOrder :
    ∃ t, RingInv stored ∧ HistoryInv stored ∧ step stored = .next t ∧ t.queue = [frameB, frameD] :=
  ⟨_, stored_ring, stored_history, rfl, by decide⟩
theorem witness_StepRefinesAtomicQueue :
    ∃ t, RingInv loaded ∧ step loaded = .next t ∧ loaded.queue = frameB :: t.queue :=
  ⟨_, loaded_ring, rfl, by decide⟩
/-- `u`: the ring after port R has freed a slot in between (40_write_port.md R116 item 3). -/
theorem witness_OverflowMeansFullAtObservation :
    ∃ t v, exec (.push frameB) { machine 4 3 0 .w with wstate := .started (.push frameB) } = .next t
      ∧ t.wstate = .pushObserved frameB 0
      ∧ exec (.push frameB) { machine 4 3 1 .w with wstate := .pushObserved frameB 0 } = .next v
      ∧ (machine 4 3 0 .w).freeSpace = 0 ∧ (machine 4 3 1 .w).freeSpace ≠ 0 :=
  ⟨_, _, rfl, rfl, rfl, by decide, by decide⟩
/-- `u`: the ring after port W has published a frame in between (41_read_port.md R136 item 4). -/
theorem witness_EmptyMeansEmptyAtObservation :
    ∃ t v, exec .pop { machine 4 1 1 .r with rstate := .started .pop } = .next t ∧ t.rstate = .popObserved 1
      ∧ exec .pop { machine 4 2 1 .r with rstate := .popObserved 1 } = .next v
      ∧ (machine 4 1 1 .r).available = 0 ∧ (machine 4 2 1 .r).available ≠ 0 :=
  ⟨_, _, rfl, rfl, rfl, by decide, by decide⟩
theorem witness_CountsAgeSafely :
    RingInv stored ∧ (∃ t, step stored = .next t) ∧ stored.nextPort = some .w
      ∧ RingInv loaded ∧ (∃ t, step loaded = .next t) ∧ loaded.nextPort = some .r :=
  ⟨stored_ring, ⟨_, rfl⟩, by decide, loaded_ring, ⟨_, rfl⟩, by decide⟩
theorem witness_PreemptiveScheduleExcludesPortR :
    SchedPreempt preempted ∧ preempted.idle .w = false ∧ preempted.enabled .r = true
      ∧ ∃ t, step preempted = .next t := by
  refine ⟨fun _ => by decide, by decide, by decide, ⟨_, rfl⟩⟩

end Sys2Proof.Tests
end

section
/-! PROOFS. The counts of two indices of the ring and the number of resident frames (10_state.md R28). -/

namespace Sys2Proof

/-! ### What an admitted configuration gives -/

theorem Config.ok_iff {c : Config} : c.ok = true ↔ 2 ≤ c.N ∧ 2 ^ c.W = c.N := by
  simp [Config.ok]

theorem Config.two_le_N {c : Config} (ok : c.ok = true) : 2 ≤ c.N := (Config.ok_iff.mp ok).1

theorem Config.two_pow_W {c : Config} (ok : c.ok = true) : 2 ^ c.W = c.N := (Config.ok_iff.mp ok).2

end Sys2Proof

namespace Sys2Proof.Machine

/-! ### The counts -/

/-- The remainder that `available` turns into a natural number is never negative, so nothing is lost. -/
theorem natCast_available {n : Nat} (hn : 0 < n) (w r : Nat) : (available n w r : Int) = ((w : Int) - r) % n :=
  Int.toNat_of_nonneg (Int.emod_nonneg _ (by omega))

/-- The two counts share all slots but one: the natural subtractions of `freeSpace` never truncate. -/
theorem available_add_freeSpace {n : Nat} (hn : 0 < n) (w r : Nat) : available n w r + freeSpace n w r = n - 1 := by
  have := available_lt hn w r
  unfold freeSpace
  omega

theorem freeSpace_lt {n : Nat} (hn : 0 < n) (w r : Nat) : freeSpace n w r < n := by
  have := available_add_freeSpace hn w r
  omega

/-! ### The number of resident frames -/

@[simp] theorem State.length_queue (s : State) : s.queue.length = s.available := by
  simp [State.queue]

theorem HistoryInv.length_pushed {s : State} (h : HistoryInv s) :
    s.pushed.length = s.popped.length + s.available := by
  rw [h.fifo, List.length_append, State.length_queue]

/-- Settles O7: each count is below `N = 2 ^ W` and together they make `N - 1`; the resident frames are the queue that
the history leaves. -/
theorem countsOfIndices : Obligations.CountsOfIndices := by
  refine ⟨fun c w r ok _ _ => ?_, fun _ h => h.length_pushed⟩
  have hN : 0 < c.N := Nat.zero_lt_of_lt (Config.two_le_N ok)
  have hA : available c.N w r < c.N := available_lt hN w r
  have hF : freeSpace c.N w r < c.N := freeSpace_lt hN w r
  rw [Config.two_pow_W ok]
  exact ⟨natCast_available hN w r, rfl, available_add_freeSpace hN w r,
    Nat.le_sub_one_of_lt hA, Nat.le_sub_one_of_lt hF, hA, hF⟩

end Sys2Proof.Machine
end

section
/-! PROOFS. Answering a command: the response word and what `respond` leaves (30_encoding.md R86, R87), and the commands
and words that are answered `ILLEGAL` in the micro-step that accepts them (R93 to R95). -/

namespace Sys2Proof

theorem decode_of_reserved {w : CmdWord} (h : (opField w).toNat ∈ Machine.reservedOpcodes) :
    decode w = .reserved (opField w) := by
  unfold decode
  split <;> simp_all [Machine.reservedOpcodes]

end Sys2Proof

namespace Sys2Proof.Machine

/-! ### The response word -/

theorem statusCode_lt (t : Status) : statusCode t < 4 := by cases t <;> decide

theorem Response.word_mod_four (x : Response) : x.word % 4 = statusCode x.status := by
  have := statusCode_lt x.status
  unfold Response.word
  omega

theorem Response.word_div_four (x : Response) : x.word / 4 = x.payload := by
  have := statusCode_lt x.status
  unfold Response.word
  omega

/-- Two status bits below a payload of `M` bits make a word of `M + 2` bits. -/
theorem Response.word_lt {x : Response} (h : x.payload < 2 ^ x.len) : x.word < 2 ^ x.width := by
  have := statusCode_lt x.status
  rw [Response.width, Nat.pow_add]
  unfold Response.word
  omega

/-! ### What `respond` leaves -/

theorem sameRegisters_respond (s : State) (p : Port) (c : Command) (x : Response) :
    SameRegisters s (s.respond p c x) := by
  simp [SameRegisters]

@[simp] theorem State.output_respond (s : State) (p : Port) (c : Command) (x : Response) :
    (s.respond p c x).output p = some x := by
  simp [State.output]

/-- Settles O14: what `respond` leaves, the layout of any response word, and the words of R91's responses. -/
theorem respondEndsCommand : Obligations.RespondEndsCommand := by
  refine ⟨fun s p c x => ⟨s.output_respond p c x, s.idle_respond p c x, ?_, ?_, sameRegisters_respond s p c x,
      x.word_mod_four, x.word_div_four, rfl, Response.word_lt⟩,
    rfl, rfl, rfl, rfl, rfl, rfl, rfl, rfl, rfl, rfl, fun f => ?_, fun bits => ?_⟩
  · rintro rfl
    exact s.respond_w_rstate c x
  · rintro rfl
    exact s.respond_r_wstate c x
  · exact ⟨rfl, (respFrame f).word_mod_four, (respFrame f).word_div_four, Response.word_lt (x := respFrame f) f.isLt⟩
  · exact ⟨rfl, (respEmpty bits).word_mod_four, Response.word_lt (x := respEmpty bits) bits.isLt⟩

/-! ### Micro-step 0 of a command -/

/-- The next micro-step of any command at an idle port is its acceptance. -/
theorem exec_of_idle (i : Instr) {s : State} (idle : s.idle s.turn = true) : exec i s = .next (s.accept i) := by
  cases i with
  | push f =>
    cases turn : s.turn
    · simp [exec, execPush, turn, s.idle_w_iff.mp (turn ▸ idle)]
    · simp [exec, execPush, turn, turn ▸ idle]
  | pop =>
    cases turn : s.turn
    · simp [exec, execPop, turn, turn ▸ idle]
    · simp [exec, execPop, turn, s.idle_r_iff.mp (turn ▸ idle)]
  | avail => exact if_pos idle
  | free => exact if_pos idle
  | flags => exact if_pos idle
  | ovfcnt => exact if_pos idle
  | frame x => exact if_pos idle
  | cksum b => exact if_pos idle

/-- A command that an idle port does not admit is answered `ILLEGAL`, and nothing else changes. -/
theorem exec_of_not_admits {i : Instr} {s : State} {p : Port} (turn : s.turn = p) (idle : s.idle p = true)
    (no : admits s.cfg p i = false) :
    exec i s = .next { s with trace := s.trace ++ [⟨p, .instr i, respIllegal⟩] } := by
  subst turn
  rw [exec_of_idle i idle]
  rcases accept_cases i idle with ⟨yes, -⟩ | ⟨-, answered⟩
  · simp [no] at yes
  · rw [answered]

/-- Settles O17: port R admits neither `PUSH` nor `FRAME`, and port W does not admit `POP`. -/
theorem wrongPortIllegal : Obligations.WrongPortIllegal := by
  refine ⟨fun s f turn idle => ?_, fun s x turn idle => ?_, fun s turn idle => ?_⟩
  · exact exec_of_not_admits turn (s.idle_r_iff.mpr idle) rfl
  · exact exec_of_not_admits turn (s.idle_r_iff.mpr idle) (by simp [admits])
  · exact exec_of_not_admits turn (s.idle_w_iff.mpr idle) rfl

/-- Settles O18: without a framer no port admits `FRAME` or `CKSUM`. -/
theorem absentFramerIllegal : Obligations.AbsentFramerIllegal := by
  refine fun s noFramer idle => ⟨fun x => ?_, fun b => ?_⟩
  · exact exec_of_not_admits rfl idle (by simp [admits, noFramer])
  · exact exec_of_not_admits rfl idle (by simp [admits, noFramer])

/-! ### A word presented at an idle port -/

@[simp] theorem State.idle_atMicroStep (s : State) (p q : Port) : (s.atMicroStep p).idle q = s.idle q := by
  cases q <;> simp [State.idle]

theorem State.input_atMicroStep_same {s : State} {p : Port} (idle : s.idle p = true) :
    (s.atMicroStep p).input p = (s.input p).tail := by
  rw [State.atMicroStep, if_pos idle]
  cases p <;> simp [State.input]

theorem State.input_atMicroStep_other (s : State) (p : Port) :
    (s.atMicroStep p).input (otherPort p) = s.input (otherPort p) := by
  unfold State.atMicroStep
  split <;> cases p <;> simp [State.input, otherPort]

theorem State.fetched_of_idle {s : State} {p : Port} {w : CmdWord} {rest : List CmdWord} (idle : s.idle p = true)
    (front : s.input p = w :: rest) : s.fetched p = some (decode w) := by
  rw [State.fetched, State.inProgress_of_idle s idle, front]
  rfl

/-- A reserved opcode answered at an idle port adds the answer to the trace and changes nothing else. -/
theorem State.answerReserved_of_idle {s : State} {p : Port} (op : Opcode) (idle : s.idle p = true) :
    s.answerReserved p op = { s with trace := s.trace ++ [⟨p, .reserved op, respIllegal⟩] } := by
  rw [State.answerReserved, State.respond, State.setIdle_of_idle s idle]

/-- The step that accepts a word with a reserved opcode, as an exact next state (R93). -/
theorem step_of_reserved {s : State} {p : Port} {w : CmdWord} {rest : List CmdWord} (ok : s.cfg.ok = true)
    (next : s.nextPort = some p) (idle : s.idle p = true) (front : s.input p = w :: rest)
    (reserved : (opField w).toNat ∈ reservedOpcodes) :
    step s = .next { s.atMicroStep p with
      trace := s.trace ++ [⟨p, .reserved (opField w), respIllegal⟩] } := by
  have fetch : s.fetched p = some (.reserved (opField w)) := by
    rw [State.fetched_of_idle idle front, decode_of_reserved reserved]
  have answer := State.answerReserved_of_idle (s := s.atMicroStep p) (opField w) (by simpa using idle)
  rw [State.atMicroStep_trace] at answer
  simp only [step, ok, next, fetch, answer, if_true]

/-- Settles O16: the next state is that of `step_of_reserved`, in which only the word has gone and the answer come. -/
theorem reservedOpcodeIllegal : Obligations.ReservedOpcodeIllegal := by
  intro s p w rest ok next idle front reserved
  have taken : (s.atMicroStep p).input p = rest := by rw [State.input_atMicroStep_same idle, front, List.tail_cons]
  have left := s.input_atMicroStep_other p
  refine ⟨_, step_of_reserved ok next idle front reserved, by simp [SameRegisters], s.atMicroStep_cfg p,
    s.atMicroStep_wstate p, s.atMicroStep_rstate p, s.atMicroStep_wLastSeen p, s.atMicroStep_rLastSeen p, ?_, ?_, rfl⟩
  · cases p <;> exact taken
  · cases p <;> exact left

end Sys2Proof.Machine
end

section
/-! PROOFS. The micro-steps of `PUSH` at port W (40_write_port.md R111 to R114), each as an exact next state, and the
acceptance of a word that stands for a command. -/

namespace Sys2Proof

theorem decode_of_push {w : CmdWord} (h : opField w = 0x1#4) : decode w = .instr (.push (w.extractLsb' 4 240)) := by
  rw [decode, h]
  rfl

end Sys2Proof

namespace Sys2Proof.Machine

/-! ### The step that accepts a command -/

/-- The step at an idle port whose first word stands for a command is micro-step 0 of that command. -/
theorem step_of_instr {s : State} {p : Port} {w : CmdWord} {rest : List CmdWord} {i : Instr} (ok : s.cfg.ok = true)
    (next : s.nextPort = some p) (idle : s.idle p = true) (front : s.input p = w :: rest)
    (command : decode w = .instr i) :
    step s = exec i (s.atMicroStep p) := by
  have fetch : s.fetched p = some (.instr i) := by rw [State.fetched_of_idle idle front, command]
  simp only [step, ok, next, fetch, if_true]

/-- A command that an idle port admits becomes the command in progress there, and nothing else changes. -/
theorem exec_of_admits {i : Instr} {s : State} {p : Port} (turn : s.turn = p) (idle : s.idle p = true)
    (yes : admits s.cfg p i = true) : exec i s = .next (s.setStarted p i) := by
  subst turn
  rw [exec_of_idle i idle, State.accept, if_pos yes]

theorem State.atMicroStep_w_of_idle {s : State} {w : CmdWord} {rest : List CmdWord} (idle : s.idle .w = true)
    (front : s.wIn = w :: rest) : s.atMicroStep .w = { s.giveTurn .w with wIn := rest } := by
  simp [State.atMicroStep, State.consume, idle, front]

theorem State.atMicroStep_r_of_idle {s : State} {w : CmdWord} {rest : List CmdWord} (idle : s.idle .r = true)
    (front : s.rIn = w :: rest) : s.atMicroStep .r = { s.giveTurn .r with rIn := rest } := by
  simp [State.atMicroStep, State.consume, idle, front]

/-- Settles O24: port W admits `PUSH`, so its record becomes `W_STARTED`; port R does not, so it answers `ILLEGAL`. -/
theorem pushWordAccepted : Obligations.PushWordAccepted := by
  refine fun s w rest ok op => ⟨fun next at0 front => ?_, fun next at0 front => ?_⟩
  · have idle : s.idle .w = true := s.idle_w_iff.mpr at0
    rw [step_of_instr ok next idle front (decode_of_push op),
      exec_of_admits (s.atMicroStep_turn .w) (by simpa using idle) rfl, State.atMicroStep_w_of_idle idle front]
    rfl
  · have idle : s.idle .r = true := s.idle_r_iff.mpr at0
    rw [step_of_instr ok next idle front (decode_of_push op),
      exec_of_not_admits (s.atMicroStep_turn .r) (by simpa using idle) rfl, State.atMicroStep_trace,
      State.atMicroStep_r_of_idle idle front]

/-! ### Micro-step 1: observe `read_index` -/

theorem exec_push_of_started {f : Frame} {s : State} (turn : s.turn = .w) (at1 : s.wstate = .started (.push f)) :
    exec (.push f) s = .next (pushObserve f s) := by
  simp [exec, execPush, turn, at1]

/-- What the model observes is one of the values that R61 and R62 allow, whatever the view. -/
theorem observes_afterObserve (s : State) (p : Port) : Observes s p (s.observed p) (s.afterObserve p) := by
  cases view : s.cfg.view with
  | current => simp [Observes, State.observed, State.afterObserve, view]
  | stale => simp [Observes, State.observed, State.afterObserve, view, staleValue_mem]

/-- Settles O25: the value and the state are the model's own `observed` and `afterObserve`. -/
theorem pushObservesReadIndex : Obligations.PushObservesReadIndex := fun s _ turn at1 =>
  ⟨s.observed .w, s.afterObserve .w, observes_afterObserve s .w, exec_push_of_started turn at1⟩

/-! ### Micro-step 2: store or drop -/

theorem exec_push_of_observed {f : Frame} {v : Nat} {s : State} (turn : s.turn = .w)
    (at2 : s.wstate = .pushObserved f v) : exec (.push f) s = pushDecide f v s := by
  simp [exec, execPush, turn, at2]

theorem pushDecide_of_full {f : Frame} {v : Nat} {s : State} (full : freeSpace s.cfg.N s.writeIndex v = 0) :
    pushDecide f v s = .next (pushDrop f s) :=
  if_pos full

theorem pushDecide_of_room {f : Frame} {v : Nat} {s : State} (room : freeSpace s.cfg.N s.writeIndex v ≠ 0)
    (range : s.writeIndex < s.cfg.N) : pushDecide f v s = .next (pushStore f s) := by
  rw [pushDecide, if_neg room, if_pos range]

/-- The live window ends before `write_index`: the slot there is free for the next frame (R113). -/
theorem State.live_ne_writeIndex {s : State} (hw : s.writeIndex < s.cfg.N) (hr : s.readIndex < s.cfg.N) {k : Nat}
    (live : k < s.available) : (s.readIndex + k) % s.cfg.N ≠ s.writeIndex := by
  have hk : k < s.cfg.N := Nat.lt_trans live (available_lt (Nat.zero_lt_of_lt hw) s.writeIndex s.readIndex)
  rw [Ne, add_mod_eq_iff hw hr hk]
  exact Nat.ne_of_lt live

/-- Settles O26: each branch is `pushDecide`'s, and the slot written is the one just past the live window. -/
theorem pushStoresOrDrops : Obligations.PushStoresOrDrops := by
  refine fun s f v turn at2 hw hr hv => ⟨freeSpace_eq_zero_iff hw hv, fun full => ?_, fun room => ?_,
    fun k live => s.live_ne_writeIndex hw hr live⟩
  · rw [exec_push_of_observed turn at2, pushDecide_of_full full]
    rfl
  · rw [exec_push_of_observed turn at2, pushDecide_of_room room hw]
    rfl

/-! ### Micro-step 3: publish -/

theorem exec_push_of_stored {f : Frame} {s : State} (turn : s.turn = .w) (at3 : s.wstate = .pushStored f) :
    exec (.push f) s = .next (pushPublish f s) := by
  simp [exec, execPush, turn, at3]

theorem State.slot_of_written {s : State} {i : Nat} {f : Frame} (h : Memory.written s.slots i = some f) :
    s.slot i = f := by
  rw [State.slot, Memory.read, h]

/-- The slot `available` places after `read_index` is the one at `write_index`. -/
theorem State.readIndex_add_available {s : State} (hw : s.writeIndex < s.cfg.N) (hr : s.readIndex < s.cfg.N) :
    (s.readIndex + s.available) % s.cfg.N = s.writeIndex :=
  (add_mod_eq_iff hw hr (available_lt (Nat.zero_lt_of_lt hw) _ _)).mpr rfl

/-- Publishing makes one more frame resident and leaves the slots of the old ones alone; the new last place of the queue
is the slot at the old `write_index`, which holds `f` since micro-step 2. -/
theorem RingInv.queue_pushPublish {s : State} (inv : RingInv s) {f : Frame} (at3 : s.wstate = .pushStored f) :
    (pushPublish f s).queue = s.queue ++ [f] := by
  have hw : s.writeIndex < s.cfg.N := inv.wf.writeIndexLt
  have hr : s.readIndex < s.cfg.N := inv.wf.readIndexLt
  obtain ⟨room, written⟩ := inv.stored f at3
  have longer : (pushPublish f s).available = s.available + 1 := available_inc_left hw hr room
  have last : s.slot ((s.readIndex + s.available) % s.cfg.N) = f := by
    rw [State.readIndex_add_available hw hr, State.slot_of_written written]
  calc (pushPublish f s).queue
      = (List.range (s.available + 1)).map (fun k => s.slot ((s.readIndex + k) % s.cfg.N)) := by
        rw [State.queue, longer]; rfl
    _ = s.queue ++ [f] := by simp only [List.range_succ, List.map_append, List.map_singleton, last, State.queue]

/-- Settles O27: the next state is `pushPublish`'s, and its queue is that of `RingInv.queue_pushPublish`. -/
theorem pushPublishes : Obligations.PushPublishes := fun s f turn at3 =>
  ⟨pushPublish f s, exec_push_of_stored turn at3, rfl,
    fun view => by simp [State.observed, State.otherIndex, pushPublish, view], fun inv => inv.queue_pushPublish at3⟩

end Sys2Proof.Machine
end

section
/-! PROOFS. The micro-steps of `POP` at port R (41_read_port.md R131 to R134), each as an exact next state, and the slot
at `read_index` while port R loads and holds its frame (10_state.md R37 items 4 and 5). -/

namespace Sys2Proof

theorem decode_of_pop {w : CmdWord} (h : opField w = 0x2#4) : decode w = .instr .pop := by
  rw [decode, h]
  rfl

end Sys2Proof

namespace Sys2Proof.Machine

/-! ### Micro-step 0: acceptance -/

/-- Settles O30: port R admits `POP`, so its record becomes `R_STARTED`; port W does not, so it answers `ILLEGAL`. -/
theorem popWordAccepted : Obligations.PopWordAccepted := by
  refine fun s w rest ok op => ⟨fun next at0 front => ?_, fun next at0 front => ?_⟩
  · have idle : s.idle .r = true := s.idle_r_iff.mpr at0
    rw [step_of_instr ok next idle front (decode_of_pop op),
      exec_of_admits (s.atMicroStep_turn .r) (by simpa using idle) rfl, State.atMicroStep_r_of_idle idle front]
    rfl
  · have idle : s.idle .w = true := s.idle_w_iff.mpr at0
    rw [step_of_instr ok next idle front (decode_of_pop op),
      exec_of_not_admits (s.atMicroStep_turn .w) (by simpa using idle) rfl, State.atMicroStep_trace,
      State.atMicroStep_w_of_idle idle front]

/-! ### Micro-step 1: observe `write_index` -/

theorem exec_pop_of_started {s : State} (turn : s.turn = .r) (at1 : s.rstate = .started .pop) :
    exec .pop s = .next (popObserve s) := by
  simp [exec, execPop, turn, at1]

/-- Settles O31: the value and the state are the model's own `observed` and `afterObserve`. -/
theorem popObservesWriteIndex : Obligations.PopObservesWriteIndex := fun s turn at1 =>
  ⟨s.observed .r, s.afterObserve .r, observes_afterObserve s .r, exec_pop_of_started turn at1⟩

/-! ### Micro-step 2: load, or report `EMPTY` -/

theorem exec_pop_of_observed {v : Nat} {s : State} (turn : s.turn = .r) (at2 : s.rstate = .popObserved v) :
    exec .pop s = popDecide v s := by
  simp [exec, execPop, turn, at2]

theorem popDecide_of_empty {v : Nat} {s : State} (empty : available s.cfg.N v s.readIndex = 0) :
    popDecide v s = .next (popEmpty s) :=
  if_pos empty

theorem popDecide_of_data {v : Nat} {s : State} (data : available s.cfg.N v s.readIndex ≠ 0)
    (range : s.readIndex < s.cfg.N) : popDecide v s = .next (popLoad s) := by
  rw [popDecide, if_neg data, if_pos range]

/-- An index observed by port R is behind the true one, so the frames it shows are resident (R133). -/
theorem RingInv.available_pos_of_popObserved {s : State} (inv : RingInv s) {v : Nat} (at2 : s.rstate = .popObserved v)
    (data : available s.cfg.N v s.readIndex ≠ 0) : 0 < s.available :=
  Nat.lt_of_lt_of_le (Nat.pos_of_ne_zero data) (inv.wObsBehind v at2)

/-- The oldest slot of a live window that is not empty has been written, so its reading is no free value. -/
theorem RingInv.written_readIndex {s : State} (inv : RingInv s) (live : 0 < s.available) :
    Memory.written s.slots s.readIndex = some (s.slot s.readIndex) := by
  have written := inv.liveWritten 0 live
  rw [Nat.add_zero, Nat.mod_eq_of_lt inv.wf.readIndexLt] at written
  obtain ⟨f, hf⟩ := Option.isSome_iff_exists.mp written
  rw [State.slot_of_written hf, hf]

/-- `PUSH` stores into no slot but the one at `write_index` (R113). -/
theorem eq_writeIndex_of_pushStoresAt {f : Frame} {s : State} {a : Nat} (h : pushStoresAt f s = some a) :
    a = s.writeIndex := by
  unfold pushStoresAt at h
  split at h
  · split at h
    · exact (Option.some.inj h).symm
    · cases h
  · cases h

/-- While port R holds its copy, the two indices differ, and `PUSH` stores at the other one (R37 item 5). -/
theorem RingInv.pushStoresAt_ne_readIndex {s : State} (inv : RingInv s) {d : Frame} (at3 : s.rstate = .popLoaded d)
    (f : Frame) : pushStoresAt f s ≠ some s.readIndex := fun stores =>
  (inv.loaded d at3).1 (eq_writeIndex_of_pushStoresAt stores)

/-- Settles O32: each branch is `popDecide`'s, the slot loaded is the oldest of the live window, and no `PUSH` stores
there while the indices differ. -/
theorem popLoadsOrReportsEmpty : Obligations.PopLoadsOrReportsEmpty := by
  refine fun s v turn at2 hr hv => ⟨available_eq_zero_iff hv hr, fun empty => ?_, fun data => ?_,
    fun inv data => ?_, fun _ _ g inv at3 => inv.pushStoresAt_ne_readIndex at3 g⟩
  · refine ⟨Config.emptyPayload s.draws, ?_⟩
    rw [exec_pop_of_observed turn at2, popDecide_of_empty empty]
    rfl
  · rw [exec_pop_of_observed turn at2, popDecide_of_data data hr]
    rfl
  · have live : 0 < s.available := inv.available_pos_of_popObserved at2 data
    exact ⟨live, inv.written_readIndex live⟩

/-! ### Micro-step 3: release -/

theorem exec_pop_of_loaded {d : Frame} {s : State} (turn : s.turn = .r) (at3 : s.rstate = .popLoaded d) :
    exec .pop s = .next (popRelease d s) := by
  simp [exec, execPop, turn, at3]

/-- Places counted from the next index are those counted from this one, one further. -/
theorem inc_add_mod (n r k : Nat) : (inc n r + k) % n = (r + (k + 1)) % n := by
  rw [inc, Nat.mod_add_mod, Nat.add_right_comm, Nat.add_assoc]

/-- Releasing takes the first place off the queue and leaves every slot alone; that place is the slot at the old
`read_index`, which holds `d` since micro-step 2. -/
theorem RingInv.queue_popRelease {s : State} (inv : RingInv s) {d : Frame} (at3 : s.rstate = .popLoaded d) :
    s.queue = d :: (popRelease d s).queue := by
  have hw : s.writeIndex < s.cfg.N := inv.wf.writeIndexLt
  have hr : s.readIndex < s.cfg.N := inv.wf.readIndexLt
  obtain ⟨data, written⟩ := inv.loaded d at3
  have shorter : s.available = (popRelease d s).available + 1 := (available_inc_right hw hr data).symm
  have first : s.slot ((s.readIndex + 0) % s.cfg.N) = d := by
    rw [Nat.add_zero, Nat.mod_eq_of_lt hr, State.slot_of_written written]
  calc s.queue
      = d :: (List.range (popRelease d s).available).map (fun k => s.slot ((s.readIndex + (k + 1)) % s.cfg.N)) := by
        rw [State.queue, shorter, List.range_succ_eq_map, List.map_cons, List.map_map, first]; rfl
    _ = d :: (popRelease d s).queue := by simp only [← inc_add_mod]; rfl

/-- Settles O33: the next state is `popRelease`'s, and its queue is that of `RingInv.queue_popRelease`. -/
theorem popReleases : Obligations.PopReleases := fun s d turn at3 =>
  ⟨popRelease d s, exec_pop_of_loaded turn at3, rfl,
    fun view => by simp [State.observed, State.otherIndex, popRelease, view], fun inv => inv.queue_popRelease at3⟩

end Sys2Proof.Machine
end

section
/-! PROOFS. The status commands `AVAIL`, `FREE`, `FLAGS` and `OVFCNT` (42_status.md R150 to R157): their words, their two
micro-steps, and their response words bit for bit. -/

namespace Sys2Proof

/-- The opcode alone makes a command that carries no operand: the decoder looks at no other bit of its word (R84). -/
theorem decode_of_opcode {w : CmdWord} {i : Instr} (bare : formatOf (opcode i) = .Z) (op : opField w = opcode i) :
    decode w = .instr i := by
  rw [decode, op]
  cases i with
  | push f => simp [formatOf, opcode] at bare
  | pop => rfl
  | avail => rfl
  | free => rfl
  | flags => rfl
  | ovfcnt => rfl
  | frame x => simp [formatOf, opcode] at bare
  | cksum b => simp [formatOf, opcode] at bare

end Sys2Proof

namespace Sys2Proof.Machine

/-! ### Micro-step 1 of a command of two micro-steps, and the indices it works on -/

/-- A command of two micro-steps that the port has started ends in the next one. -/
theorem twoStep_of_started {i : Instr} {finish : State → State} {s : State} (at1 : s.startedAt s.turn = some i)
    (yes : admits s.cfg s.turn i = true) : twoStep i finish s = .next (finish s) := by
  simp [twoStep, State.idle_of_startedAt s at1, at1, yes]

/-- The model's indices of R150 are those that the relation gives for the value the model observes. -/
theorem State.seenWrite_eq (s : State) (p : Port) : s.seenWrite p = s.writeSeen p (s.observed p) := by
  cases p <;> rfl

theorem State.seenRead_eq (s : State) (p : Port) : s.seenRead p = s.readSeen p (s.observed p) := by
  cases p <;> rfl

/-! ### The response words -/

/-- The response to a counting command: `OK`, the count above the two status bits, in the width it was given. -/
theorem respCount_word (width count : Nat) :
    (respCount width count).status = .ok ∧ (respCount width count).width = width + 2
      ∧ (respCount width count).word / 4 = count
      ∧ (count < 2 ^ width → (respCount width count).word < 2 ^ (respCount width count).width) :=
  ⟨rfl, rfl, Response.word_div_four _, Response.word_lt (x := respCount width count)⟩

/-- Bits 2 and 3 of the response to `FLAGS` are the two flags, and it has no higher bit (R155). -/
theorem respFlags_word (e f : Bool) :
    (respFlags e f).word.testBit 2 = e ∧ (respFlags e f).word.testBit 3 = f ∧ (respFlags e f).word < 2 ^ 4 := by
  cases e <;> cases f <;> decide

/-! ### The commands -/

/-- Micro-step 1 of `AVAIL` and of `FREE`, for either count of two indices: it observes, and responds `OK` with the count
of the indices it works on. A count below `N = 2 ^ W` fits in its `W` bits. -/
theorem answersCount {i : Instr} {count : Nat → Nat → Nat → Nat} {s : State}
    (below : ∀ {n : Nat}, 0 < n → ∀ w r, count n w r < n)
    (micro : exec i s = .next ((s.afterObserve s.turn).respond s.turn (.instr i)
      (respCount s.cfg.W (count s.cfg.N (s.seenWrite s.turn) (s.seenRead s.turn))))) :
    ∃ v t x, Observes s s.turn v t ∧ exec i s = .next (t.respond s.turn (.instr i) x)
      ∧ x.status = .ok ∧ x.width = s.cfg.W + 2
      ∧ x.word / 4 = count s.cfg.N (s.writeSeen s.turn v) (s.readSeen s.turn v)
      ∧ (s.cfg.ok = true → x.word < 2 ^ x.width) := by
  rw [s.seenWrite_eq, s.seenRead_eq] at micro
  obtain ⟨status, width, value, range⟩ := respCount_word s.cfg.W
    (count s.cfg.N (s.writeSeen s.turn (s.observed s.turn)) (s.readSeen s.turn (s.observed s.turn)))
  refine ⟨_, _, _, observes_afterObserve s s.turn, micro, status, width, value, fun ok => range ?_⟩
  rw [Config.two_pow_W ok]
  exact below (Nat.zero_lt_of_lt (Config.two_le_N ok)) _ _

/-- Settles O36: `AVAIL` is the command of `answersCount` for the number of resident frames. -/
theorem availAnswersCount : Obligations.AvailAnswersCount :=
  ⟨fun _ op => decode_of_opcode rfl op, fun _ idle => exec_of_admits rfl idle rfl,
    fun _ at1 => answersCount available_lt (twoStep_of_started at1 rfl)⟩

/-- At reset the two indices are equal, so all slots but the reserved one are free (R153). -/
theorem freeSpace_resetWith {c : Config} (ok : c.ok = true) : (State.resetWith c).freeSpace = c.N - 1 := by
  have hN : 0 < c.N := Nat.zero_lt_of_lt (Config.two_le_N ok)
  have empty : available c.N 0 0 = 0 := (available_eq_zero_iff hN hN).mpr rfl
  calc (State.resetWith c).freeSpace
      = c.N - available c.N 0 0 - 1 := rfl
    _ = c.N - 1 := by rw [empty, Nat.sub_zero]

/-- Settles O37: `FREE` is the command of `answersCount` for the free space. -/
theorem freeAnswersSpace : Obligations.FreeAnswersSpace :=
  ⟨fun _ op => decode_of_opcode rfl op, fun _ idle => exec_of_admits rfl idle rfl,
    fun _ at1 => answersCount freeSpace_lt (twoStep_of_started at1 rfl), fun _ => freeSpace_resetWith⟩

/-- Settles O38: the two bits are the model's flags, each an equality of the indices the port works on. -/
theorem flagsAnswersConditions : Obligations.FlagsAnswersConditions := by
  refine ⟨fun w op => decode_of_opcode rfl op, fun s idle => exec_of_admits rfl idle rfl, fun s at1 => ?_⟩
  obtain ⟨bit2, bit3, range⟩ := respFlags_word (emptyFlag (s.seenWrite s.turn) (s.seenRead s.turn))
    (fullFlag s.cfg.N (s.seenWrite s.turn) (s.seenRead s.turn))
  refine ⟨_, _, _, observes_afterObserve s s.turn, twoStep_of_started at1 rfl, rfl, rfl, range, ?_, ?_⟩
  · rw [bit2, emptyFlag, beq_iff_eq, s.seenWrite_eq, s.seenRead_eq]
  · rw [bit3, fullFlag, beq_iff_eq, s.seenWrite_eq, s.seenRead_eq]

/-- Settles O39: micro-step 1 observes nothing, it only responds with the counter. -/
theorem ovfcntAnswersCounter : Obligations.OvfcntAnswersCounter :=
  ⟨fun _ op => decode_of_opcode rfl op, fun _ idle => exec_of_admits rfl idle rfl,
    fun s at1 => ⟨_, twoStep_of_started at1 rfl, respCount_word s.cfg.ovfW s.overflowCount⟩⟩

end Sys2Proof.Machine
end

section
/-! PROOFS. The framer's commands `FRAME` and `CKSUM` (43_framer.md R171, R174 to R176, R179): the checksum as a sum,
the sequence field of a built frame, the commands' words, and their two micro-steps. -/

namespace Sys2Proof

theorem decode_of_frame {w : CmdWord} (h : opField w = 0x8#4) : decode w = .instr (.frame (w.extractLsb' 4 192)) := by
  rw [decode, h]
  rfl

theorem decode_of_cksum {w : CmdWord} (h : opField w = 0x9#4) : decode w = .instr (.cksum (w.extractLsb' 4 224)) := by
  rw [decode, h]
  rfl

end Sys2Proof

namespace Sys2Proof.Machine

/-! ### The checksum -/

/-- A fold that adds bytes into an accumulator comes to the sum of the bytes as natural numbers, reduced once. -/
theorem toNat_foldl_add_bytes (bs : List Byte) (acc : Byte) :
    (bs.foldl (fun acc x => acc + x) acc).toNat = (acc.toNat + (bs.map BitVec.toNat).sum) % 256 := by
  induction bs generalizing acc with
  | nil => exact (Nat.mod_eq_of_lt acc.isLt).symm
  | cons x bs ih =>
    rw [List.foldl_cons, ih, BitVec.toNat_add, List.map_cons, List.sum_cons, Nat.mod_add_mod, Nat.add_assoc]

/-- Settles O41: the accumulator of `toNat_foldl_add_bytes` starts at zero. -/
theorem checksumIsByteSum : Obligations.ChecksumIsByteSum := by
  intro b
  rw [checksum, toNat_foldl_add_bytes, BitVec.toNat_zero, Nat.zero_add]

/-! ### The built frame and the sequence number -/

/-- Bytes 2 and 3 of a built frame are the sequence number it was built with (R174). -/
theorem sequence_decodeFrame_mkframe (seq : BitVec 16) (x : Sample) :
    (decodeFrame (mkframe seq x)).sequence = seq := by
  calc (mkframe seq x).extractLsb' 16 16
      = (mkBody seq x).extractLsb' 16 16 := extract_append_low _ _ 16 16 (by decide)
    _ = (x ++ seq ++ 0x55#8).extractLsb' 8 16 := extract_append_high _ _ 16 16 (by decide)
    _ = (x ++ seq).extractLsb' 0 16 := extract_append_high _ _ 8 16 (by decide)
    _ = seq.extractLsb' 0 16 := extract_append_low _ _ 0 16 (by decide)
    _ = seq := BitVec.extractLsb'_eq_self

/-! ### The commands -/

/-- Micro-step 1 of `FRAME` at port W of a machine with a framer. -/
theorem exec_frame_of_started {x : Sample} {s : State} (turn : s.turn = .w) (at1 : s.wstate = .started (.frame x))
    (framer : s.cfg.hasFramer = true) : exec (.frame x) s = .next (frameFinish x s) :=
  twoStep_of_started (by rw [turn, s.startedAt_w_iff, at1]) (by simp [admits, turn, framer])

/-- Settles O44: acceptance is that of an admitted command, micro-step 1 is `frameFinish`, and the numbering is what
the sequence invariant says. -/
theorem frameBuildsAndCounts : Obligations.FrameBuildsAndCounts := by
  refine ⟨fun w op => decode_of_frame op, fun s x turn at0 framer => ?_, fun s x turn at1 framer => ⟨?_, ?_, ?_⟩⟩
  · exact exec_of_admits turn (s.idle_w_iff.mpr at0) (by simp [admits, framer])
  · rw [exec_frame_of_started turn at1 framer, frameFinish, turn]
    rfl
  · exact BitVec.toNat_add s.seqNext 1#16
  · exact ⟨sequence_decodeFrame_mkframe s.seqNext x, SequenceInv.next, fun _ => rfl, Response.word_div_four _⟩

/-- Settles O46: a port admits `CKSUM` exactly when there is a framer, and the response carries the 8 bits of the
checksum. -/
theorem cksumAnswersSum : Obligations.CksumAnswersSum := by
  refine ⟨fun w op => decode_of_cksum op, fun s b noFramer idle => ?_,
    fun s b framer => ⟨fun idle => ?_, fun at1 => ?_⟩⟩
  · rw [exec_of_idle _ idle, State.accept, if_neg (by simp [admits, noFramer])]
  · exact exec_of_admits rfl idle framer
  · exact ⟨respSum (checksum b), twoStep_of_started at1 framer, rfl, rfl, Response.word_div_four _,
      Response.word_lt (x := respSum (checksum b)) (checksum b).isLt⟩

end Sys2Proof.Machine
end

section
/-! PROOFS. What each micro-step leaves unchanged: the environment, what the other port owns, and every field the
command does not write (60_exceptions.md R233, R240, R241; 70_reset_and_hazards.md R265; 10_state.md R22; 20_memory.md R57). -/

namespace Sys2Proof.Machine

variable (s : State)

/-! ### Fields that accepting and observing leave -/

@[simp] theorem State.accept_cfg (i : Instr) : (s.accept i).cfg = s.cfg := by
  unfold State.accept; split <;> simp
@[simp] theorem State.accept_slots (i : Instr) : (s.accept i).slots = s.slots := by
  unfold State.accept; split <;> simp
@[simp] theorem State.accept_writeIndex (i : Instr) : (s.accept i).writeIndex = s.writeIndex := by
  unfold State.accept; split <;> simp
@[simp] theorem State.accept_readIndex (i : Instr) : (s.accept i).readIndex = s.readIndex := by
  unfold State.accept; split <;> simp
@[simp] theorem State.accept_overflowCount (i : Instr) : (s.accept i).overflowCount = s.overflowCount := by
  unfold State.accept; split <;> simp
@[simp] theorem State.accept_seqNext (i : Instr) : (s.accept i).seqNext = s.seqNext := by
  unfold State.accept; split <;> simp
@[simp] theorem State.accept_wLastSeen (i : Instr) : (s.accept i).wLastSeen = s.wLastSeen := by
  unfold State.accept; split <;> simp
@[simp] theorem State.accept_rLastSeen (i : Instr) : (s.accept i).rLastSeen = s.rLastSeen := by
  unfold State.accept; split <;> simp
@[simp] theorem State.accept_wIn (i : Instr) : (s.accept i).wIn = s.wIn := by
  unfold State.accept; split <;> simp
@[simp] theorem State.accept_rIn (i : Instr) : (s.accept i).rIn = s.rIn := by
  unfold State.accept; split <;> simp
@[simp] theorem State.accept_sched (i : Instr) : (s.accept i).sched = s.sched := by
  unfold State.accept; split <;> simp
@[simp] theorem State.accept_turn (i : Instr) : (s.accept i).turn = s.turn := by
  unfold State.accept; split <;> simp

theorem State.accept_wstate_of_r {s : State} (i : Instr) (turn : s.turn = .r) : (s.accept i).wstate = s.wstate := by
  unfold State.accept; split <;> simp [turn]
theorem State.accept_rstate_of_w {s : State} (i : Instr) (turn : s.turn = .w) : (s.accept i).rstate = s.rstate := by
  unfold State.accept; split <;> simp [turn]

@[simp] theorem State.afterObserve_w_rLastSeen : (s.afterObserve .w).rLastSeen = s.rLastSeen := by
  unfold State.afterObserve; split <;> rfl
@[simp] theorem State.afterObserve_r_wLastSeen : (s.afterObserve .r).wLastSeen = s.wLastSeen := by
  unfold State.afterObserve; split <;> rfl

theorem State.afterObserve_of_current {s : State} {p : Port} (view : s.cfg.view = .current) :
    s.afterObserve p = s := by
  simp [State.afterObserve, view]

/-! ### The micro-steps as updates -/

@[simp] theorem pushObserve_eq (f : Frame) :
    pushObserve f s = { s.afterObserve .w with wstate := .pushObserved f (s.observed .w) } := rfl
@[simp] theorem pushDrop_eq (f : Frame) :
    pushDrop f s = { s with overflowCount := incOverflow s.cfg.ovfW s.overflowCount }.respond .w (.instr (.push f))
      respOverflow := rfl
@[simp] theorem pushStore_eq (f : Frame) :
    pushStore f s = { s with slots := Memory.write s.slots s.writeIndex f, wstate := .pushStored f } := rfl
@[simp] theorem pushPublish_eq (f : Frame) :
    pushPublish f s = { s with writeIndex := inc s.cfg.N s.writeIndex }.respond .w (.instr (.push f)) respOk := rfl
@[simp] theorem popObserve_eq :
    popObserve s = { s.afterObserve .r with rstate := .popObserved (s.observed .r) } := rfl
@[simp] theorem popEmpty_eq :
    popEmpty s = { s with draws := s.draws + 1 }.respond .r (.instr .pop) (respEmpty (Config.emptyPayload s.draws)) :=
  rfl
@[simp] theorem popLoad_eq : popLoad s = { s with rstate := .popLoaded (s.slot s.readIndex) } := rfl
@[simp] theorem popRelease_eq (d : Frame) :
    popRelease d s = { s with readIndex := inc s.cfg.N s.readIndex }.respond .r (.instr .pop) (respFrame d) := rfl
@[simp] theorem availFinish_eq :
    availFinish s = (s.afterObserve s.turn).respond s.turn (.instr .avail)
      (respCount s.cfg.W (available s.cfg.N (s.seenWrite s.turn) (s.seenRead s.turn))) := rfl
@[simp] theorem freeFinish_eq :
    freeFinish s = (s.afterObserve s.turn).respond s.turn (.instr .free)
      (respCount s.cfg.W (freeSpace s.cfg.N (s.seenWrite s.turn) (s.seenRead s.turn))) := rfl
@[simp] theorem flagsFinish_eq :
    flagsFinish s = (s.afterObserve s.turn).respond s.turn (.instr .flags)
      (respFlags (emptyFlag (s.seenWrite s.turn) (s.seenRead s.turn))
        (fullFlag s.cfg.N (s.seenWrite s.turn) (s.seenRead s.turn))) := rfl
@[simp] theorem ovfcntFinish_eq :
    ovfcntFinish s = s.respond s.turn (.instr .ovfcnt) (respCount s.cfg.ovfW s.overflowCount) := rfl
@[simp] theorem frameFinish_eq (x : Sample) :
    frameFinish x s = { s with seqNext := incSeq s.seqNext }.respond s.turn (.instr (.frame x))
      (respFrame (mkframe s.seqNext x)) := rfl
@[simp] theorem cksumFinish_eq (b : CkBytes) :
    cksumFinish b s = s.respond s.turn (.instr (.cksum b)) (respSum (checksum b)) := rfl

variable {s t : State} {i : Instr}

/-! ### What no micro-step writes -/

theorem MicroStep.environment (micro : MicroStep i s t) :
    t.cfg = s.cfg ∧ t.wIn = s.wIn ∧ t.rIn = s.rIn ∧ t.sched = s.sched ∧ t.turn = s.turn := by
  cases micro <;> simp

/-- What port R does leaves everything port W owns (R240). -/
theorem MicroStep.keeps_w (micro : MicroStep i s t) (turn : s.turn = .r) :
    t.slots = s.slots ∧ t.writeIndex = s.writeIndex ∧ t.overflowCount = s.overflowCount
      ∧ t.seqNext = s.seqNext ∧ t.wstate = s.wstate ∧ t.wLastSeen = s.wLastSeen := by
  cases micro with
  | accepted => simp [State.accept_wstate_of_r i turn]
  | _ => simp_all

/-- What port W does leaves everything port R owns (R241). -/
theorem MicroStep.keeps_r (micro : MicroStep i s t) (turn : s.turn = .w) :
    t.readIndex = s.readIndex ∧ t.rstate = s.rstate ∧ t.rLastSeen = s.rLastSeen := by
  cases micro with
  | accepted => simp [State.accept_rstate_of_w i turn]
  | _ => simp_all

/-- Settles O49: a micro-step is one at port R or one at port W. -/
theorem portsWriteOnlyTheirOwn : Obligations.PortsWriteOnlyTheirOwn := fun _ _ _ next =>
  ⟨(exec_next next).keeps_w, (exec_next next).keeps_r⟩

/-! ### What a micro-step answers -/

/-- Ending a command with a response that is not `ILLEGAL`. -/
theorem answer_of_respond {u : State} {p : Port} {x : Response} (turn : s.turn = p) (trace : u.trace = s.trace)
    (legal : x.status ≠ .illegal) :
    ∃ y, (u.respond p (.instr i) x).trace = s.trace ++ [⟨s.turn, .instr i, y⟩]
      ∧ (u.respond p (.instr i) x).idle s.turn = true
      ∧ (y.status = .illegal → u.respond p (.instr i) x = { s with trace := s.trace ++ [⟨s.turn, .instr i, y⟩] }) := by
  subst turn
  exact ⟨x, by simp [trace], by simp, fun illegal => absurd illegal legal⟩

/-- A micro-step answers nothing, or its own command at the port in turn, which is then idle; and `ILLEGAL` is answered
by acceptance alone. -/
theorem MicroStep.answer (micro : MicroStep i s t) :
    t.trace = s.trace
      ∨ ∃ x, t.trace = s.trace ++ [⟨s.turn, .instr i, x⟩] ∧ t.idle s.turn = true
          ∧ (x.status = .illegal → t = { s with trace := s.trace ++ [⟨s.turn, .instr i, x⟩] }) := by
  cases micro with
  | accepted idle =>
    rcases accept_cases i idle with ⟨-, eq⟩ | ⟨-, eq⟩
    · exact .inl (by simp [eq])
    · exact .inr ⟨respIllegal, by simp [eq], by rw [eq]; exact idle, fun _ => eq⟩
  | pushObserved | popObserved => exact .inl (s.afterObserve_trace _)
  | pushStored | popLoaded => exact .inl rfl
  | pushDropped turn | pushPublished turn | popWasEmpty turn | popReleased turn =>
    exact .inr (answer_of_respond turn rfl nofun)
  | availed | freed | flagged => exact .inr (answer_of_respond rfl (s.afterObserve_trace _) nofun)
  | counted | summed | framed => exact .inr (answer_of_respond rfl rfl nofun)

/-- Settles O50: the environment is what no micro-step writes, and the trace grows by what the micro-step answers. -/
theorem microStepAnswersAtMostOnce : Obligations.MicroStepAnswersAtMostOnce := by
  intro i s t next
  have micro := exec_next next
  obtain ⟨cfg, wIn, rIn, sched, turn⟩ := micro.environment
  exact ⟨cfg, wIn, rIn, sched, turn, micro.answer.imp_right fun ⟨x, trace, idle, _⟩ => ⟨x, trace, idle⟩⟩

/-- Settles O19: an answer `ILLEGAL` is that of acceptance, which adds it to the trace of an idle port. -/
theorem illegalChangesNothing : Obligations.IllegalChangesNothing := by
  intro i s t l next answered illegal
  rcases (exec_next next).answer with same | ⟨x, trace, idle, eq⟩
  · simp [same] at answered
  · obtain rfl : ⟨s.turn, .instr i, x⟩ = l := by simpa [trace] using answered
    exact ⟨eq illegal, idle⟩

/-! ### What one command leaves -/

/-- `PUSH` writes the slot that `pushStoresAt` names, and none where it names none. -/
theorem MicroStep.push_slots {f : Frame} (micro : MicroStep (.push f) s t) :
    (pushStoresAt f s = none ∧ t.slots = s.slots)
      ∨ (pushStoresAt f s = some s.writeIndex ∧ t.slots = Memory.write s.slots s.writeIndex f) := by
  cases micro with
  | accepted idle =>
    refine .inl ⟨?_, s.accept_slots _⟩
    cases turn : s.turn with
    | w => simp [pushStoresAt, turn, s.idle_w_iff.mp (turn ▸ idle)]
    | r => simp [pushStoresAt, turn]
  | pushObserved _ at1 => exact .inl ⟨by simp [pushStoresAt, at1], s.afterObserve_slots .w⟩
  | pushDropped turn at2 full => exact .inl ⟨by simp [pushStoresAt, turn, at2, full], rfl⟩
  | pushStored turn at2 room => exact .inr ⟨by simp [pushStoresAt, turn, at2, room], rfl⟩
  | pushPublished _ at3 => exact .inl ⟨by simp [pushStoresAt, at3], rfl⟩

theorem State.slotByte_of_slots (slots : t.slots = s.slots) (a k : Nat) : t.slotByte a k = s.slotByte a k := by
  rw [State.slotByte, State.slot, slots, State.slotByte, State.slot]

theorem State.slotByte_of_write {f : Frame} {b : Nat} (slots : t.slots = Memory.write s.slots b f) (a k : Nat) :
    t.slotByte a k = if b = a then byteAt f k else s.slotByte a k := by
  rw [State.slotByte, State.slot, slots, Memory.read_write]
  split <;> rfl

theorem State.afterObserve_lastSeen_ne {p : Port} (changed : (s.afterObserve p).lastSeen p ≠ s.lastSeen p) :
    s.cfg.view = .stale := by
  cases view : s.cfg.view with
  | current => rw [State.afterObserve_of_current view] at changed; exact absurd rfl changed
  | stale => rfl

/-- A command that port R does not admit leaves port R's record, wherever it is presented. -/
theorem State.accept_rstate_of_not_admits (idle : s.idle s.turn = true) (no : admits s.cfg .r i = false) :
    (s.accept i).rstate = s.rstate := by
  cases turn : s.turn with
  | w => exact State.accept_rstate_of_w i turn
  | r => rcases accept_cases i idle with ⟨yes, -⟩ | ⟨-, eq⟩ <;> simp_all

/-- A command that port W does not admit leaves port W's record, wherever it is presented. -/
theorem State.accept_wstate_of_not_admits (idle : s.idle s.turn = true) (no : admits s.cfg .w i = false) :
    (s.accept i).wstate = s.wstate := by
  cases turn : s.turn with
  | w => rcases accept_cases i idle with ⟨yes, -⟩ | ⟨-, eq⟩ <;> simp_all
  | r => exact State.accept_wstate_of_r i turn

/-- Settles O28: the slots are those of `push_slots`; each register is named by the one micro-step that writes it. -/
theorem pushFrame : Obligations.PushFrame := by
  intro s t f next
  have micro := exec_next next
  refine ⟨fun a k other => ?_, fun a k this => ?_, ?_⟩
  · rcases micro.push_slots with ⟨-, slots⟩ | ⟨stores, slots⟩
    · exact State.slotByte_of_slots slots a k
    · rw [State.slotByte_of_write slots, if_neg (by rintro rfl; exact other stores)]
  · rcases micro.push_slots with ⟨none, -⟩ | ⟨stores, slots⟩
    · cases none.symm.trans this
    · cases stores.symm.trans this
      rw [State.slotByte_of_write slots, if_pos rfl]
  · cases micro with
    | accepted idle => simp [State.accept_rstate_of_not_admits (i := .push f) idle rfl]
    | pushObserved turn at1 =>
      have stale := State.afterObserve_lastSeen_ne (s := s) (p := .w)
      simpa [turn, at1, State.lastSeen] using stale
    | pushDropped => simp
    | pushStored => simp
    | pushPublished turn at3 => simp [turn, at3]

/-- Settles O34: only the micro-step that releases writes `read_index`, and only a stale observation `r_last_seen_w`. -/
theorem popFrame : Obligations.PopFrame := by
  intro s t next
  have micro := exec_next next
  have slots : t.slots = s.slots := by cases micro <;> simp
  refine ⟨State.slotByte_of_slots slots, ?_⟩
  cases micro with
  | accepted idle => simp [State.accept_wstate_of_not_admits (i := .pop) idle rfl]
  | popObserved turn at1 =>
    have stale := State.afterObserve_lastSeen_ne (s := s) (p := .r)
    simpa [turn, at1, State.lastSeen] using stale
  | popWasEmpty => simp
  | popLoaded => simp
  | popReleased _ at3 => simp [at3]

/-- Settles O45: only the micro-step that builds writes a register, `seq_next`. -/
theorem frameLeavesRing : Obligations.FrameLeavesRing := by
  intro s t x next
  have micro := exec_next next
  have slots : t.slots = s.slots := by cases micro <;> simp
  refine ⟨State.slotByte_of_slots slots, ?_⟩
  cases micro with
  | accepted => simpa using ⟨State.accept_rstate_of_w _, State.accept_wstate_of_r _⟩
  | framed turn at1 => simp [turn, at1, incSeq]

/-- The commands that only ask: a query is accepted, or it responds, having observed or not. -/
theorem MicroStep.query (micro : MicroStep i s t)
    (query : i = .avail ∨ i = .free ∨ i = .flags ∨ i = .ovfcnt ∨ ∃ b, i = .cksum b) :
    t = s.accept i ∨ (∃ x, t = s.respond s.turn (.instr i) x)
      ∨ (¬(i = .ovfcnt ∨ ∃ b, i = .cksum b) ∧ ∃ x, t = (s.afterObserve s.turn).respond s.turn (.instr i) x) := by
  cases micro with
  | accepted => exact .inl rfl
  | availed | freed | flagged => exact .inr (.inr ⟨by simp, _, rfl⟩)
  | counted | summed => exact .inr (.inl ⟨_, rfl⟩)
  | _ => simp at query

/-- Settles O40: a query changes no register whichever of its micro-steps it takes, and writes `last_seen` only where it
observes. -/
theorem queriesChangeNoRegister : Obligations.QueriesChangeNoRegister := by
  intro i s t query next
  have micro := exec_next next
  have registers : SameRegisters s t := by
    rcases micro.query query with rfl | ⟨x, rfl⟩ | ⟨-, x, rfl⟩ <;> simp [SameRegisters]
  refine ⟨registers, State.slotByte_of_slots registers.1, fun turn => ?_, fun turn => ?_, ?_, fun exactView => ?_⟩
  · obtain ⟨-, rstate, -⟩ := micro.keeps_r turn
    exact rstate
  · obtain ⟨-, -, -, -, wstate, -⟩ := micro.keeps_w turn
    exact wstate
  · cases turn : s.turn with
    | w => obtain ⟨-, -, lastSeen⟩ := micro.keeps_r turn; exact lastSeen
    | r => obtain ⟨-, -, -, -, -, lastSeen⟩ := micro.keeps_w turn; exact lastSeen
  · rcases micro.query query with rfl | ⟨x, rfl⟩ | ⟨observes, x, rfl⟩
    · cases s.turn <;> simp [State.lastSeen]
    · cases s.turn <;> simp [State.lastSeen]
    · rw [State.afterObserve_of_current (exactView.resolve_right observes)]
      cases s.turn <;> simp [State.lastSeen]

end Sys2Proof.Machine
end

section
/-! PROOFS. What every micro-step keeps: the legal values of the registers and the invariant of the ring (10_state.md
R37 items 1 to 5), each operation by a lemma of its own. -/

namespace Sys2Proof.Machine

variable {s t : State}

/-! ### The bookkeeping of a step -/

/-- Taking the turn and a word touches only what is the model's own: inputs, schedule, turn and draw count. -/
theorem State.atMicroStep_eq (s : State) (p : Port) : ∃ wIn rIn sched draws,
    s.atMicroStep p = { s with wIn := wIn, rIn := rIn, sched := sched, turn := p, draws := draws } := by
  unfold State.atMicroStep State.giveTurn
  split <;> split <;> cases p <;> exact ⟨_, _, _, _, rfl⟩

/-- What the bookkeeping, an answer to a reserved opcode and every micro-step keep, every step keeps. -/
theorem step_keeps {P : State → Prop} (bookkeeping : ∀ {s} p, P s → P (s.atMicroStep p))
    (answer : ∀ {s} p op, P s → P (s.answerReserved p op)) (micro : ∀ {i s t}, P s → MicroStep i s t → P t)
    (inv : P s) (next : step s = .next t) : P t := by
  obtain ⟨-, rfl | ⟨p, op, -, -, rfl⟩ | ⟨p, i, -, taken⟩⟩ := step_next next
  · exact inv
  · exact answer p op (bookkeeping p inv)
  · exact micro (bookkeeping p inv) taken

/-! ### Legal registers -/

theorem WellFormedState.N_pos (wf : WellFormedState s) : 0 < s.cfg.N := Nat.zero_lt_of_lt wf.writeIndexLt

theorem WellFormedState.atMicroStep (p : Port) (wf : WellFormedState s) : WellFormedState (s.atMicroStep p) := by
  obtain ⟨wIn, rIn, sched, draws, eq⟩ := s.atMicroStep_eq p
  rw [eq]
  exact { wf with }

theorem WellFormedState.respond (p : Port) (c : Command) (x : Response) (wf : WellFormedState s) :
    WellFormedState (s.respond p c x) := by
  cases p with
  | w => exact { wf with wAdmitted := nofun, rObsLt := nofun }
  | r => exact { wf with rAdmitted := nofun, wObsLt := nofun }

theorem WellFormedState.setStarted {p : Port} {i : Instr} (wf : WellFormedState s) (yes : admits s.cfg p i = true) :
    WellFormedState (s.setStarted p i) := by
  cases p with
  | w => exact { wf with wAdmitted := fun _ e => by cases e; exact yes, rObsLt := nofun }
  | r => exact { wf with rAdmitted := fun _ e => by cases e; exact yes, wObsLt := nofun }

theorem WellFormedState.accept (i : Instr) (wf : WellFormedState s) : WellFormedState (s.accept i) := by
  unfold State.accept
  split
  · next yes => exact wf.setStarted yes
  · exact wf.respond _ _ _

theorem staleValue_lt {n : Nat} (hn : 0 < n) (last cur k : Nat) : staleValue n last cur k < n := Nat.mod_lt _ hn

theorem WellFormedState.observed_lt (wf : WellFormedState s) (p : Port) : s.observed p < s.cfg.N := by
  unfold State.observed
  split
  · cases p with
    | w => exact wf.readIndexLt
    | r => exact wf.writeIndexLt
  · exact staleValue_lt wf.N_pos _ _ _

theorem State.afterObserve_of_stale {p : Port} (view : s.cfg.view = .stale) :
    s.afterObserve p = { s.setLastSeen p (s.observed p) with draws := s.draws + 1 } := by
  simp [State.afterObserve, view]

theorem WellFormedState.afterObserve (p : Port) (wf : WellFormedState s) : WellFormedState (s.afterObserve p) := by
  cases view : s.cfg.view with
  | current => rwa [State.afterObserve_of_current view]
  | stale =>
    rw [State.afterObserve_of_stale view]
    cases p with
    | w => exact { wf with wLastSeenLt := wf.observed_lt .w }
    | r => exact { wf with rLastSeenLt := wf.observed_lt .r }

theorem incOverflow_lt (ovfW c : Nat) : incOverflow ovfW c < 2 ^ ovfW := Nat.mod_lt _ (Nat.two_pow_pos ovfW)

theorem WellFormedState.pushStore (f : Frame) (wf : WellFormedState s) : WellFormedState (pushStore f s) where
  __ := wf
  memWf := Memory.write_wf wf.memWf _ f
  slotsInRange c hc := by
    rcases Memory.mem_write hc with rfl | old
    · exact wf.writeIndexLt
    · exact wf.slotsInRange c old
  wAdmitted := nofun
  rObsLt := nofun

theorem WellFormedState.pushObserve (f : Frame) (wf : WellFormedState s) : WellFormedState (pushObserve f s) where
  __ := wf.afterObserve .w
  wAdmitted := nofun
  rObsLt _ _ at2 := by
    cases at2
    exact (s.afterObserve_cfg .w).symm ▸ wf.observed_lt .w

theorem WellFormedState.popObserve (wf : WellFormedState s) : WellFormedState (popObserve s) where
  __ := wf.afterObserve .r
  rAdmitted := nofun
  wObsLt _ at2 := by
    cases at2
    exact (s.afterObserve_cfg .r).symm ▸ wf.observed_lt .r

theorem WellFormedState.microStep {i : Instr} (wf : WellFormedState s) (micro : MicroStep i s t) :
    WellFormedState t := by
  cases micro with
  | accepted => exact wf.accept i
  | pushObserved => exact wf.pushObserve _
  | pushDropped => exact WellFormedState.respond _ _ _ { wf with overflowLt := incOverflow_lt _ _ }
  | pushStored => exact wf.pushStore _
  | pushPublished => exact WellFormedState.respond _ _ _ { wf with writeIndexLt := inc_lt wf.N_pos _ }
  | popObserved => exact wf.popObserve
  | popWasEmpty => exact WellFormedState.respond _ _ _ { wf with }
  | popLoaded => exact { wf with rAdmitted := nofun, wObsLt := nofun }
  | popReleased => exact WellFormedState.respond _ _ _ { wf with readIndexLt := inc_lt wf.N_pos _ }
  | availed | freed | flagged => exact (wf.afterObserve _).respond _ _ _
  | counted | summed => exact wf.respond _ _ _
  | framed => exact WellFormedState.respond _ _ _ { wf with }

/-! ### The invariant of the ring -/

theorem RingInv.atMicroStep (p : Port) (inv : RingInv s) : RingInv (s.atMicroStep p) := by
  have wf := inv.wf.atMicroStep p
  obtain ⟨wIn, rIn, sched, draws, eq⟩ := s.atMicroStep_eq p
  rw [eq] at wf ⊢
  exact { inv with wf }

theorem RingInv.respond (p : Port) (c : Command) (x : Response) (inv : RingInv s) : RingInv (s.respond p c x) := by
  have wf := inv.wf.respond p c x
  cases p with
  | w => exact { inv with
      wf, rObsBehind := nofun, stored := nofun, wSeenLatest := fun _ => nofun, wSeenRoom := fun _ => nofun }
  | r => exact { inv with
      wf, wObsBehind := nofun, loaded := nofun, rSeenLatest := fun _ => nofun, rSeenFrame := fun _ => nofun }

theorem RingInv.setStarted {p : Port} {i : Instr} (inv : RingInv s) (yes : admits s.cfg p i = true) :
    RingInv (s.setStarted p i) := by
  have wf := inv.wf.setStarted yes
  cases p with
  | w => exact { inv with
      wf, rObsBehind := nofun, stored := nofun, wSeenLatest := fun _ => nofun, wSeenRoom := fun _ => nofun }
  | r => exact { inv with
      wf, wObsBehind := nofun, loaded := nofun, rSeenLatest := fun _ => nofun, rSeenFrame := fun _ => nofun }

theorem RingInv.accept (i : Instr) (inv : RingInv s) : RingInv (s.accept i) := by
  unfold State.accept
  split
  · next yes => exact inv.setStarted yes
  · exact inv.respond _ _ _

/-- The read index port W observes shows no more free space than there is. -/
theorem RingInv.observed_w_behind (inv : RingInv s) :
    s.available ≤ available s.cfg.N s.writeIndex (s.observed .w) := by
  have wf := inv.wf
  unfold State.observed
  split
  · exact Nat.le_refl _
  · next view => exact available_stale_left wf.writeIndexLt wf.wLastSeenLt wf.readIndexLt (inv.wSeenBehind view)

/-- The write index port R observes shows no more frames than there are. -/
theorem RingInv.observed_r_behind (inv : RingInv s) :
    available s.cfg.N (s.observed .r) s.readIndex ≤ s.available := by
  have wf := inv.wf
  unfold State.observed
  split
  · exact Nat.le_refl _
  · next view => exact available_stale_right wf.readIndexLt wf.rLastSeenLt wf.writeIndexLt (inv.rSeenBehind view)

/-- A command that has started, none of whose micro-steps has run, may observe. -/
theorem RingInv.afterObserve {p : Port} {i : Instr} (inv : RingInv s) (at1 : s.startedAt p = some i) :
    RingInv (s.afterObserve p) := by
  have wf := inv.wf.afterObserve p
  cases view : s.cfg.view with
  | current => rwa [State.afterObserve_of_current view]
  | stale =>
    rw [State.afterObserve_of_stale view] at wf ⊢
    cases p with
    | w =>
      have started : s.wstate = .started i := s.startedAt_w_iff.mp at1
      exact { inv with
        wf
        wSeenBehind := fun _ => inv.observed_w_behind
        wSeenLatest := fun _ _ _ at2 => nomatch started.symm.trans at2
        wSeenRoom := fun _ _ at3 => nomatch started.symm.trans at3 }
    | r =>
      have started : s.rstate = .started i := s.startedAt_r_iff.mp at1
      exact { inv with
        wf
        rSeenBehind := fun _ => inv.observed_r_behind
        rSeenLatest := fun _ _ at2 => nomatch started.symm.trans at2
        rSeenFrame := fun _ _ at3 => nomatch started.symm.trans at3 }

theorem State.lastSeen_afterObserve {p : Port} (view : s.cfg.view = .stale) :
    (s.afterObserve p).lastSeen p = s.observed p := by
  rw [State.afterObserve_of_stale view]
  cases p <;> rfl

theorem RingInv.pushObserve {f : Frame} (inv : RingInv s) (at1 : s.wstate = .started (.push f)) :
    RingInv (pushObserve f s) where
  __ := inv.afterObserve (s.startedAt_w_iff.mpr at1)
  wf := inv.wf.pushObserve f
  rObsBehind _ _ at2 := by
    cases at2
    simpa [Machine.pushObserve, State.available] using inv.observed_w_behind
  stored := nofun
  wSeenLatest view _ _ at2 := by
    cases at2
    exact (State.lastSeen_afterObserve (p := .w) (by simpa [Machine.pushObserve] using view)).symm
  wSeenRoom _ := nofun

theorem RingInv.popObserve (inv : RingInv s) (at1 : s.rstate = .started .pop) : RingInv (popObserve s) where
  __ := inv.afterObserve (s.startedAt_r_iff.mpr at1)
  wf := inv.wf.popObserve
  wObsBehind _ at2 := by
    cases at2
    simpa [Machine.popObserve, State.available] using inv.observed_r_behind
  loaded := nofun
  rSeenLatest view _ at2 := by
    cases at2
    exact (State.lastSeen_afterObserve (p := .r) (by simpa [Machine.popObserve] using view)).symm
  rSeenFrame _ := nofun

/-- Room seen at an index is room at every index that shows no less free space. -/
theorem inc_ne_of_room {n w r v : Nat} (hw : w < n) (hr : r < n) (behind : available n w r ≤ available n w v)
    (room : freeSpace n w v ≠ 0) : inc n w ≠ r := by
  rw [Ne, ← freeSpace_eq_zero_iff hw hr]
  unfold freeSpace at room ⊢
  omega

/-- The slot a `PUSH` stores into is not the one port R is reading, and no live one. -/
theorem RingInv.pushStore {f : Frame} {v : Nat} (inv : RingInv s) (at2 : s.wstate = .pushObserved f v)
    (room : freeSpace s.cfg.N s.writeIndex v ≠ 0) : RingInv (pushStore f s) where
  __ := inv
  wf := inv.wf.pushStore f
  rObsBehind := nofun
  stored _ at3 := by
    cases at3
    refine ⟨inc_ne_of_room inv.wf.writeIndexLt inv.wf.readIndexLt (inv.rObsBehind f v at2) room, ?_⟩
    rw [Machine.pushStore, Memory.written_write, if_pos rfl]
  loaded d at3 := by
    obtain ⟨data, written⟩ := inv.loaded d at3
    exact ⟨data, by rw [Machine.pushStore, Memory.written_write, if_neg data.symm, written]⟩
  liveWritten k live := by
    rw [Machine.pushStore, Memory.written_write]
    split
    · rfl
    · exact inv.liveWritten k live
  wSeenLatest _ := nofun
  wSeenRoom view _ _ := by
    obtain rfl : v = s.wLastSeen := inv.wSeenLatest view f v at2
    exact inc_ne_of_room inv.wf.writeIndexLt inv.wf.wLastSeenLt (Nat.le_refl _) room

theorem RingInv.available_pushPublish {f : Frame} (inv : RingInv s) (at3 : s.wstate = .pushStored f) :
    (pushPublish f s).available = s.available + 1 :=
  available_inc_left inv.wf.writeIndexLt inv.wf.readIndexLt (inv.stored f at3).1

theorem RingInv.available_popRelease {d : Frame} (inv : RingInv s) (at3 : s.rstate = .popLoaded d) :
    (popRelease d s).available + 1 = s.available :=
  available_inc_right inv.wf.writeIndexLt inv.wf.readIndexLt (inv.loaded d at3).1

/-- The live window grows by the slot at its end, which `PUSH` has stored into. -/
theorem RingInv.pushPublish {f : Frame} (inv : RingInv s) (at3 : s.wstate = .pushStored f) :
    RingInv (pushPublish f s) := by
  have hw := inv.wf.writeIndexLt
  obtain ⟨room, written⟩ := inv.stored f at3
  have longer := inv.available_pushPublish at3
  exact { inv with
    wf := WellFormedState.respond _ _ _ { inv.wf with writeIndexLt := inc_lt inv.wf.N_pos _ }
    rObsBehind := nofun
    stored := nofun
    wObsBehind := fun v at2 => longer ▸ Nat.le_succ_of_le (inv.wObsBehind v at2)
    loaded := fun d at3 => ⟨room.symm, (inv.loaded d at3).2⟩
    liveWritten := fun k live => by
      rcases Nat.lt_succ_iff_lt_or_eq.mp (longer ▸ live) with live | rfl
      · exact inv.liveWritten k live
      · exact (State.readIndex_add_available hw inv.wf.readIndexLt).symm ▸ written ▸ rfl
    wSeenBehind := fun view => by
      rw [longer]
      exact Nat.le_trans (Nat.succ_le_succ (inv.wSeenBehind view))
        (Nat.le_of_eq (available_inc_left hw inv.wf.wLastSeenLt (inv.wSeenRoom view f at3)).symm)
    rSeenBehind := fun view => longer ▸ Nat.le_succ_of_le (inv.rSeenBehind view)
    wSeenLatest := fun _ => nofun
    wSeenRoom := fun _ => nofun }

/-- A frame seen at an index is there at every index that shows no fewer. -/
theorem ne_of_data {n w r v : Nat} (hw : w < n) (hr : r < n) (behind : available n v r ≤ available n w r)
    (data : available n v r ≠ 0) : r ≠ w := by
  rw [Ne, eq_comm, ← available_eq_zero_iff hw hr]
  omega

theorem RingInv.popLoad {v : Nat} (inv : RingInv s) (at2 : s.rstate = .popObserved v)
    (data : available s.cfg.N v s.readIndex ≠ 0) : RingInv (popLoad s) where
  __ := inv
  wf := { inv.wf with rAdmitted := nofun, wObsLt := nofun }
  wObsBehind := nofun
  loaded _ at3 := by
    cases at3
    exact ⟨ne_of_data inv.wf.writeIndexLt inv.wf.readIndexLt (inv.wObsBehind v at2) data,
      inv.written_readIndex (inv.available_pos_of_popObserved at2 data)⟩
  rSeenLatest _ := nofun
  rSeenFrame view _ _ := by
    obtain rfl : v = s.rLastSeen := inv.rSeenLatest view v at2
    exact (ne_of_data inv.wf.rLastSeenLt inv.wf.readIndexLt (Nat.le_refl _) data).symm

theorem inc_injective {n a b : Nat} (ha : a < n) (hb : b < n) (same : inc n a = inc n b) : a = b := by
  rw [inc_eq_ite ha, inc_eq_ite hb] at same
  split_ifs at same <;> omega

/-- The live window shrinks by the slot at its front, which port R has copied. -/
theorem RingInv.popRelease {d : Frame} (inv : RingInv s) (at3 : s.rstate = .popLoaded d) :
    RingInv (popRelease d s) := by
  have hw := inv.wf.writeIndexLt
  have hr := inv.wf.readIndexLt
  obtain ⟨data, written⟩ := inv.loaded d at3
  have shorter := inv.available_popRelease at3
  have less : (Machine.popRelease d s).available ≤ s.available := Nat.le_of_succ_le (Nat.le_of_eq shorter)
  exact { inv with
    wf := WellFormedState.respond _ _ _ { inv.wf with readIndexLt := inc_lt inv.wf.N_pos _ }
    rObsBehind := fun f v at2 => Nat.le_trans less (inv.rObsBehind f v at2)
    stored := fun f at3 => ⟨fun same => data (inc_injective hw hr same).symm, (inv.stored f at3).2⟩
    wObsBehind := nofun
    loaded := nofun
    liveWritten := fun k live => by
      show (Memory.written s.slots ((inc s.cfg.N s.readIndex + k) % s.cfg.N)).isSome = true
      rw [inc_add_mod]
      exact inv.liveWritten (k + 1) (shorter ▸ Nat.succ_lt_succ live)
    wSeenBehind := fun view => Nat.le_trans less (inv.wSeenBehind view)
    rSeenBehind := fun view => by
      refine Nat.le_of_succ_le_succ ?_
      rw [Nat.succ_eq_add_one, Nat.succ_eq_add_one, shorter]
      exact Nat.le_trans (Nat.le_of_eq (available_inc_right inv.wf.rLastSeenLt hr (inv.rSeenFrame view d at3).symm))
        (inv.rSeenBehind view)
    rSeenLatest := fun _ => nofun
    rSeenFrame := fun _ => nofun }

theorem RingInv.microStep {i : Instr} (inv : RingInv s) (micro : MicroStep i s t) : RingInv t := by
  cases micro with
  | accepted => exact inv.accept i
  | pushObserved _ at1 => exact inv.pushObserve at1
  | pushDropped =>
    exact RingInv.respond _ _ _ { inv with wf := { inv.wf with overflowLt := incOverflow_lt _ _ } }
  | pushStored _ at2 room => exact inv.pushStore at2 room
  | pushPublished _ at3 => exact inv.pushPublish at3
  | popObserved _ at1 => exact inv.popObserve at1
  | popWasEmpty => exact RingInv.respond _ _ _ { inv with wf := { inv.wf with } }
  | popLoaded _ at2 data => exact inv.popLoad at2 data
  | popReleased _ at3 => exact inv.popRelease at3
  | availed at1 | freed at1 | flagged at1 => exact (inv.afterObserve at1).respond _ _ _
  | counted | summed => exact inv.respond _ _ _
  | framed => exact RingInv.respond _ _ _ { inv with wf := { inv.wf with } }

/-- Settles O54: the bookkeeping of a step, an answer and each micro-step keep the invariant, by the lemmas above. -/
theorem stepKeepsRingInvariant : Obligations.StepKeepsRingInvariant := fun _ _ =>
  step_keeps RingInv.atMicroStep (fun p _ => RingInv.respond p _ _) RingInv.microStep

end Sys2Proof.Machine
end

section
/-! PROOFS. When a command has a step: at an idle port, and at a port that has this command in progress; a command in
progress ends after at most three micro-steps, and the block never stops (30_encoding.md R80; 10_state.md R35;
60_exceptions.md R230, R234). -/

namespace Sys2Proof.Machine

variable {s t : State} {i : Instr}

/-! ### A command in progress has a next micro-step -/

theorem exec_of_started (at1 : s.startedAt s.turn = some i) (yes : admits s.cfg s.turn i = true) :
    ∃ t, exec i s = .next t := by
  cases i with
  | push f =>
    have turn : s.turn = .w := by simpa [admits] using yes
    exact ⟨_, exec_push_of_started turn (s.startedAt_w_iff.mp (turn ▸ at1))⟩
  | pop =>
    have turn : s.turn = .r := by simpa [admits] using yes
    exact ⟨_, exec_pop_of_started turn (s.startedAt_r_iff.mp (turn ▸ at1))⟩
  | avail | free | flags | ovfcnt | frame | cksum => exact ⟨_, twoStep_of_started at1 yes⟩

theorem exec_of_inProgress (wf : WellFormedState s) (busy : s.inProgress s.turn = some i) :
    ∃ t, exec i s = .next t := by
  cases turn : s.turn with
  | w =>
    cases record : s.wstate with
    | idle => simp [State.inProgress, turn, record] at busy
    | started c =>
      obtain rfl : c = i := by simpa [State.inProgress, turn, record] using busy
      exact exec_of_started (turn ▸ s.startedAt_w_iff.mpr record) (turn ▸ wf.wAdmitted c record)
    | pushObserved f v =>
      obtain rfl : .push f = i := by simpa [State.inProgress, turn, record] using busy
      rw [exec_push_of_observed turn record]
      by_cases full : freeSpace s.cfg.N s.writeIndex v = 0
      · exact ⟨_, pushDecide_of_full full⟩
      · exact ⟨_, pushDecide_of_room full wf.writeIndexLt⟩
    | pushStored f =>
      obtain rfl : .push f = i := by simpa [State.inProgress, turn, record] using busy
      exact ⟨_, exec_push_of_stored turn record⟩
  | r =>
    cases record : s.rstate with
    | idle => simp [State.inProgress, turn, record] at busy
    | started c =>
      obtain rfl : c = i := by simpa [State.inProgress, turn, record] using busy
      exact exec_of_started (turn ▸ s.startedAt_r_iff.mpr record) (turn ▸ wf.rAdmitted c record)
    | popObserved v =>
      obtain rfl : .pop = i := by simpa [State.inProgress, turn, record] using busy
      rw [exec_pop_of_observed turn record]
      by_cases empty : available s.cfg.N v s.readIndex = 0
      · exact ⟨_, popDecide_of_empty empty⟩
      · exact ⟨_, popDecide_of_data empty wf.readIndexLt⟩
    | popLoaded d =>
      obtain rfl : .pop = i := by simpa [State.inProgress, turn, record] using busy
      exact ⟨_, exec_pop_of_loaded turn record⟩

/-! ### A second command at a busy port has none -/

theorem State.inProgress_of_startedAt {p : Port} (at1 : s.startedAt p = some i) : s.inProgress p = some i := by
  cases p with
  | w => simp [State.inProgress, s.startedAt_w_iff.mp at1]
  | r => simp [State.inProgress, s.startedAt_r_iff.mp at1]

theorem twoStep_of_busy {finish : State → State} (busy : s.idle s.turn = false)
    (other : s.inProgress s.turn ≠ some i) : twoStep i finish s = .fault .portBusy := by
  have notStarted : s.startedAt s.turn ≠ some i := fun at1 => other (State.inProgress_of_startedAt at1)
  simp [twoStep, busy, notStarted]

theorem execPush_of_busy {f : Frame} (busy : s.idle s.turn = false) (other : s.inProgress s.turn ≠ some (.push f)) :
    execPush f s = .fault .portBusy := by
  cases turn : s.turn with
  | r => simp [execPush, turn, turn ▸ busy]
  | w => cases record : s.wstate <;> simp_all [execPush, State.inProgress, State.idle]

theorem execPop_of_busy (busy : s.idle s.turn = false) (other : s.inProgress s.turn ≠ some .pop) :
    execPop s = .fault .portBusy := by
  cases turn : s.turn with
  | w => simp [execPop, turn, turn ▸ busy]
  | r => cases record : s.rstate <;> simp_all [execPop, State.inProgress, State.idle]

theorem exec_of_busy (busy : s.idle s.turn = false) (other : s.inProgress s.turn ≠ some i) :
    exec i s = .fault .portBusy := by
  cases i with
  | push => exact execPush_of_busy busy other
  | pop => exact execPop_of_busy busy other
  | avail | free | flags | ovfcnt | frame | cksum => exact twoStep_of_busy busy other

/-- Settles O51: acceptance at an idle port, the next micro-step of the command in progress, and the stop for
any other. -/
theorem execAnswersUnlessBusy : Obligations.ExecAnswersUnlessBusy := fun i _ wf =>
  ⟨fun takes => takes.elim (fun idle => ⟨_, exec_of_idle i idle⟩) (exec_of_inProgress wf), exec_of_busy⟩

/-! ### How far a command has come -/

theorem State.idle_of_inProgress {p : Port} (busy : s.inProgress p = some i) : s.idle p = false := by
  rw [← Bool.not_eq_true]
  intro idle
  cases (s.inProgress_of_idle idle).symm.trans busy

theorem State.remaining_le_three (p : Port) : s.remaining p ≤ 3 := by
  unfold State.remaining
  split <;> split <;> decide

theorem State.remaining_pos {p : Port} (busy : s.idle p = false) : 0 < s.remaining p := by
  cases p with
  | w =>
    cases record : s.wstate with
    | idle => simp [State.idle, record] at busy
    | started c => cases c <;> simp [State.remaining, record]
    | pushObserved | pushStored => simp [State.remaining, record]
  | r =>
    cases record : s.rstate with
    | idle => simp [State.idle, record] at busy
    | started c => cases c <;> simp [State.remaining, record]
    | popObserved | popLoaded => simp [State.remaining, record]

theorem State.remaining_of_idle {p : Port} (idle : s.idle p = true) : s.remaining p = 0 := by
  cases p with
  | w => simp [State.remaining, s.idle_w_iff.mp idle]
  | r => simp [State.remaining, s.idle_r_iff.mp idle]

/-- A micro-step of a command in progress ends the command, or goes on to the next number. -/
theorem MicroStep.remaining_lt (micro : MicroStep i s t) (busy : s.idle s.turn = false) :
    t.remaining s.turn < s.remaining s.turn := by
  have ends (idle : t.idle s.turn = true) : t.remaining s.turn < s.remaining s.turn :=
    State.remaining_of_idle idle ▸ State.remaining_pos busy
  cases micro with
  | accepted idle => simp [idle] at busy
  | pushObserved turn at1 => simp [State.remaining, turn, at1]
  | pushStored turn at2 => simp [State.remaining, turn, at2]
  | popObserved turn at1 => simp [State.remaining, turn, at1]
  | popLoaded turn at2 => simp [State.remaining, turn, at2]
  | pushDropped turn | pushPublished turn | popWasEmpty turn | popReleased turn => exact ends (by simp [turn])
  | availed | freed | flagged | counted | framed | summed => exact ends (by simp)

/-- Settles O52: the next micro-step is that of `exec_of_inProgress`; it leaves the other port's record, which says how
far the command there has come. -/
theorem everyCommandEnds : Obligations.EveryCommandEnds := by
  intro i s wf busy
  obtain ⟨t, next⟩ := exec_of_inProgress wf busy
  have micro := exec_next next
  refine ⟨State.remaining_le_three _, t, next, micro.remaining_lt (State.idle_of_inProgress busy), ?_⟩
  cases turn : s.turn with
  | w =>
    obtain ⟨-, record, -⟩ := micro.keeps_r turn
    simp only [otherPort, State.remaining, record]
  | r =>
    obtain ⟨-, -, -, -, record, -⟩ := micro.keeps_w turn
    simp only [otherPort, State.remaining, record]

/-! ### The block never stops -/

@[simp] theorem State.inProgress_atMicroStep (p q : Port) : (s.atMicroStep p).inProgress q = s.inProgress q := by
  cases q <;> simp [State.inProgress]

/-- The step of a port that has a command in progress is the next micro-step of that command. -/
theorem step_of_inProgress {p : Port} (ok : s.cfg.ok = true) (next : s.nextPort = some p)
    (busy : s.inProgress p = some i) : step s = exec i (s.atMicroStep p) := by
  simp [step, ok, next, State.fetched, busy]

theorem State.idle_of_inProgress_none {p : Port} (free : s.inProgress p = none) : s.idle p = true := by
  cases p with
  | w => cases record : s.wstate <;> simp_all [State.inProgress, State.idle]
  | r => cases record : s.rstate <;> simp_all [State.inProgress, State.idle]

/-- What the port in turn runs is its command in progress, or a command that it accepts while idle. -/
theorem exec_of_fetched {p : Port} (wf : WellFormedState s) (fetch : s.fetched p = some (.instr i)) :
    ∃ t, exec i (s.atMicroStep p) = .next t := by
  cases busy : s.inProgress p with
  | some c =>
    obtain rfl : c = i := by simpa [State.fetched, busy] using fetch
    exact exec_of_inProgress (wf.atMicroStep p) (by simpa using busy)
  | none => exact ⟨_, exec_of_idle i (by simpa using State.idle_of_inProgress_none busy)⟩

theorem step_answers (wf : WellFormedState s) : ∃ t, step s = .next t := by
  unfold step
  rw [if_pos wf.cfgOk]
  split
  · exact ⟨s, rfl⟩
  · split
    · next fetch => exact exec_of_fetched wf fetch
    · exact ⟨_, rfl⟩
    · exact ⟨s, rfl⟩

/-- Settles O53: the step is there by `step_answers`, and every part of it keeps the registers legal. -/
theorem stepKeepsWellFormedState : Obligations.StepKeepsWellFormedState := by
  intro s wf
  obtain ⟨t, next⟩ := step_answers wf
  refine ⟨t, next, ?_⟩
  exact step_keeps WellFormedState.atMicroStep (fun p _ => WellFormedState.respond p _ _) WellFormedState.microStep
    wf next

end Sys2Proof.Machine
end

section
/-! PROOFS. What a step does to the queue and to the history: the refinement of the atomic queue, the order of the
frames, the counted drops, the ageing of the counts and the numbering of the built frames (10_state.md R26, R27, R37
items 6 and 7, R38; 20_memory.md R63; 42_status.md R152, R154). -/

namespace Sys2Proof.Machine

variable {s t u : State} {i : Instr}

/-! ### What moves the ring -/

/-- No slot and no index differs. -/
structure SameRing (s t : State) : Prop where
  cfg : t.cfg = s.cfg
  slots : t.slots = s.slots
  writeIndex : t.writeIndex = s.writeIndex
  readIndex : t.readIndex = s.readIndex

theorem SameRing.queue (same : SameRing s t) : t.queue = s.queue := by
  obtain ⟨cfg, slots, writeIndex, readIndex⟩ := same
  simp only [State.queue, State.available, State.slot, cfg, slots, writeIndex, readIndex]

theorem SameRing.available (same : SameRing s t) : t.available = s.available := by
  rw [← State.length_queue, same.queue, State.length_queue]

theorem sameRing_atMicroStep (s : State) (p : Port) : SameRing s (s.atMicroStep p) := by
  constructor <;> simp

theorem sameRing_respond (s : State) (p : Port) (c : Command) (x : Response) : SameRing s (s.respond p c x) := by
  constructor <;> simp

/-- Nothing is answered, or something by which no frame enters or leaves the ring. -/
def NoFrameMoved (s t : State) : Prop :=
  t.trace = s.trace ∨ ∃ l, t.trace = s.trace ++ [l] ∧ pushedFrame l = none ∧ poppedFrame l = none

theorem noFrameMoved_respond {p : Port} {c : Command} {x : Response} (trace : u.trace = s.trace)
    (notPushed : pushedFrame ⟨p, c, x⟩ = none) (notPopped : poppedFrame ⟨p, c, x⟩ = none) :
    NoFrameMoved s (u.respond p c x) :=
  .inr ⟨_, by rw [State.respond_trace, trace], notPushed, notPopped⟩

/-- Three micro-steps move the ring: the store, the publication and the release. -/
theorem MicroStep.ring_cases (micro : MicroStep i s t) :
    (SameRing s t ∧ NoFrameMoved s t)
      ∨ (∃ f, s.turn = .w ∧ t = pushStore f s)
      ∨ (∃ f, s.turn = .w ∧ s.wstate = .pushStored f ∧ t = pushPublish f s)
      ∨ (∃ d, s.turn = .r ∧ s.rstate = .popLoaded d ∧ t = popRelease d s) := by
  cases micro with
  | pushStored turn => exact .inr (.inl ⟨_, turn, rfl⟩)
  | pushPublished turn at3 => exact .inr (.inr (.inl ⟨_, turn, at3, rfl⟩))
  | popReleased turn at3 => exact .inr (.inr (.inr ⟨_, turn, at3, rfl⟩))
  | accepted idle =>
    refine .inl ⟨by constructor <;> simp, ?_⟩
    rcases accept_cases i idle with ⟨-, eq⟩ | ⟨-, eq⟩
    · exact .inl (by simp [eq])
    · exact .inr ⟨_, by rw [eq], by simp [pushedFrame, respIllegal], by simp [poppedFrame, respIllegal]⟩
  | pushObserved | popObserved => exact .inl ⟨by constructor <;> simp, .inl (s.afterObserve_trace _)⟩
  | popLoaded => exact .inl ⟨by constructor <;> rfl, .inl rfl⟩
  | pushDropped | popWasEmpty | counted | framed | summed =>
    exact .inl ⟨by constructor <;> simp, noFrameMoved_respond rfl rfl rfl⟩
  | availed | freed | flagged =>
    exact .inl ⟨by constructor <;> simp, noFrameMoved_respond (s.afterObserve_trace _) rfl rfl⟩

/-! ### The queue -/

/-- The slot stored into is none of the queue's. -/
theorem queue_pushStore (wf : WellFormedState s) (f : Frame) : (pushStore f s).queue = s.queue := by
  refine List.map_congr_left fun k live => ?_
  have other := s.live_ne_writeIndex wf.writeIndexLt wf.readIndexLt (List.mem_range.mp live)
  rw [State.slot, pushStore, Memory.read_write, if_neg other.symm, State.slot]

/-- What a step answers is what it does to the queue. -/
def RefinesQueue (s t : State) : Prop :=
  (t.trace = s.trace ∧ t.queue = s.queue)
    ∨ ∃ l, t.trace = s.trace ++ [l] ∧ QueueStep s.cfg.N l s.queue t.queue

theorem NoFrameMoved.refinesQueue (quiet : NoFrameMoved s t) (queue : t.queue = s.queue) : RefinesQueue s t := by
  rcases quiet with trace | ⟨l, trace, notPushed, notPopped⟩
  · exact .inl ⟨trace, queue⟩
  · exact .inr ⟨l, trace, by simp [QueueStep, notPushed, notPopped, queue]⟩

/-- There is room where a `PUSH` has stored: the ring holds fewer than `N - 1` frames. -/
theorem RingInv.available_lt_of_stored {f : Frame} (inv : RingInv s) (at3 : s.wstate = .pushStored f) :
    s.available < s.cfg.N - 1 := by
  have longer := inv.available_pushPublish at3
  have below : (Machine.pushPublish f s).available < s.cfg.N := available_lt inv.wf.N_pos _ _
  omega

theorem MicroStep.refinesQueue (micro : MicroStep i s t) (inv : RingInv s) : RefinesQueue s t := by
  rcases micro.ring_cases with ⟨same, quiet⟩ | ⟨f, -, rfl⟩ | ⟨f, -, at3, rfl⟩ | ⟨d, -, at3, rfl⟩
  · exact quiet.refinesQueue same.queue
  · exact .inl ⟨rfl, queue_pushStore inv.wf f⟩
  · refine .inr ⟨_, rfl, ?_⟩
    exact ⟨s.length_queue ▸ inv.available_lt_of_stored at3, inv.queue_pushPublish at3⟩
  · refine .inr ⟨⟨.r, .instr .pop, respFrame d⟩, rfl, ?_⟩
    simpa [QueueStep, pushedFrame, poppedFrame, respFrame] using inv.queue_popRelease at3

theorem RefinesQueue.of_sameRing (same : SameRing u s) (trace : s.trace = u.trace) (refines : RefinesQueue s t) :
    RefinesQueue u t := by
  unfold RefinesQueue at *
  rwa [trace, same.queue, same.cfg] at refines

/-- Settles O56: the bookkeeping of a step leaves the ring, an answer to a reserved opcode moves no frame, and every
micro-step refines the queue. -/
theorem stepRefinesAtomicQueue : Obligations.StepRefinesAtomicQueue := by
  intro s t inv next
  obtain ⟨-, rfl | ⟨p, op, -, -, rfl⟩ | ⟨p, i, -, micro⟩⟩ := step_next next
  · exact .inl ⟨rfl, rfl⟩
  · refine (noFrameMoved_respond (s.atMicroStep_trace p) rfl rfl).refinesQueue ?_
    exact (sameRing_respond _ _ _ _).queue.trans (sameRing_atMicroStep s p).queue
  · exact (micro.refinesQueue (inv.atMicroStep p)).of_sameRing (sameRing_atMicroStep s p) (s.atMicroStep_trace p)

/-! ### The counts -/

/-- Publication makes one frame more available and release one less; each belongs to one port. -/
theorem MicroStep.available_ages (micro : MicroStep i s t) (inv : RingInv s) :
    (s.turn = .w → s.available ≤ t.available) ∧ (s.turn = .r → t.available ≤ s.available) := by
  rcases micro.ring_cases with ⟨same, -⟩ | ⟨f, -, rfl⟩ | ⟨f, turn, at3, rfl⟩ | ⟨d, turn, at3, rfl⟩
  · exact ⟨fun _ => same.available.ge, fun _ => same.available.le⟩
  · exact ⟨fun _ => Nat.le_refl s.available, fun _ => Nat.le_refl s.available⟩
  · exact ⟨fun _ => inv.available_pushPublish at3 ▸ Nat.le_succ _, fun other => nomatch turn.symm.trans other⟩
  · exact ⟨fun other => (nomatch turn.symm.trans other), fun _ => Nat.le_of_succ_le (inv.available_popRelease at3).le⟩

/-- Fewer frames resident is more space free. -/
theorem State.freeSpace_le (cfg : t.cfg = s.cfg) (le : t.available ≤ s.available) : s.freeSpace ≤ t.freeSpace := by
  have hs : s.freeSpace = s.cfg.N - s.available - 1 := rfl
  have ht : t.freeSpace = t.cfg.N - t.available - 1 := rfl
  rw [cfg] at ht
  omega

/-- Settles O58: a micro-step of port W never takes a frame away, and one of port R never adds one. -/
theorem countsAgeSafely : Obligations.CountsAgeSafely := by
  intro s t inv next
  obtain ⟨-, rfl | ⟨p, op, -, -, rfl⟩ | ⟨p, i, turn, micro⟩⟩ := step_next next
  · exact ⟨fun _ => Nat.le_refl _, fun _ => Nat.le_refl _⟩
  · have same : ((s.atMicroStep p).answerReserved p op).available = s.available :=
      (sameRing_respond _ _ _ _).available.trans (sameRing_atMicroStep s p).available
    exact ⟨fun _ => same.ge, fun _ => State.freeSpace_le (by simp [State.answerReserved]) same.le⟩
  · obtain ⟨ages_w, ages_r⟩ := micro.available_ages (inv.atMicroStep p)
    rw [(sameRing_atMicroStep s p).available, State.atMicroStep_turn] at ages_w ages_r
    obtain ⟨cfg, -⟩ := micro.environment
    exact ⟨fun w => ages_w (Option.some.inj (turn.symm.trans w)),
      fun r => State.freeSpace_le (by simpa using cfg) (ages_r (Option.some.inj (turn.symm.trans r)))⟩

/-! ### The history -/

theorem poppedFrame_of_pushed {l : TraceLine} {f : Frame} (pushed : pushedFrame l = some f) : poppedFrame l = none := by
  unfold pushedFrame at pushed
  split at pushed
  · next cmd _ => simp [poppedFrame, cmd]
  · cases pushed

theorem filterMap_concat {α β : Type} (g : α → Option β) (xs : List α) (x : α) :
    (xs ++ [x]).filterMap g = xs.filterMap g ++ (g x).toList := by
  cases h : g x <;> simp [h]

/-- What refines the queue keeps its history: a frame pushed goes to the end, a frame popped comes from the front. -/
theorem RefinesQueue.fifo (refines : RefinesQueue s t) (fifo : s.pushed = s.popped ++ s.queue) :
    t.pushed = t.popped ++ t.queue := by
  rcases refines with ⟨trace, queue⟩ | ⟨l, trace, moved⟩
  · rw [State.pushed, State.popped, trace, queue]
    exact fifo
  · have pushed : t.pushed = s.pushed ++ (pushedFrame l).toList := by
      rw [State.pushed, trace, filterMap_concat, State.pushed]
    have popped : t.popped = s.popped ++ (poppedFrame l).toList := by
      rw [State.popped, trace, filterMap_concat, State.popped]
    rw [pushed, popped, fifo]
    cases hpush : pushedFrame l with
    | some f =>
      obtain ⟨-, appended⟩ : s.queue.length < s.cfg.N - 1 ∧ t.queue = s.queue ++ [f] := by
        simpa [QueueStep, hpush] using moved
      simp [appended, poppedFrame_of_pushed hpush]
    | none =>
      cases hpop : poppedFrame l with
      | some d =>
        have removed : s.queue = d :: t.queue := by simpa [QueueStep, hpush, hpop] using moved
        simp [removed]
      | none =>
        have kept : t.queue = s.queue := by simpa [QueueStep, hpush, hpop] using moved
        simp [kept]

/-- The counter of overflows and the number of dropped frames go on together, by the micro-step that drops. -/
theorem MicroStep.counter (micro : MicroStep i s t) :
    (t.overflowCount = s.overflowCount ∧ t.dropped = s.dropped)
      ∨ (t.overflowCount = incOverflow s.cfg.ovfW s.overflowCount ∧ t.dropped = s.dropped + 1) := by
  cases micro with
  | pushDropped => exact .inr ⟨by simp, by simp [State.dropped, overflowed, respOverflow]⟩
  | accepted idle =>
    refine .inl ⟨by simp, ?_⟩
    rcases accept_cases i idle with ⟨-, eq⟩ | ⟨-, eq⟩ <;> simp [State.dropped, eq, overflowed, respIllegal]
  | _ => exact .inl ⟨by simp, by simp [State.dropped, overflowed, respOk]⟩

theorem MicroStep.keeps_counted (micro : MicroStep i s t) (counted : s.overflowCount = s.dropped % 2 ^ s.cfg.ovfW) :
    t.overflowCount = t.dropped % 2 ^ t.cfg.ovfW := by
  obtain ⟨cfg, -⟩ := micro.environment
  rcases micro.counter with ⟨count, dropped⟩ | ⟨count, dropped⟩
  · rw [count, dropped, cfg, counted]
  · rw [count, dropped, cfg, counted, incOverflow, Nat.mod_add_mod]

theorem HistoryInv.of_sameRing (same : SameRing s t) (trace : t.trace = s.trace)
    (count : t.overflowCount = s.overflowCount) (history : HistoryInv s) : HistoryInv t where
  fifo := by rw [State.pushed, State.popped, trace, same.queue]; exact history.fifo
  counted := by rw [count, State.dropped, trace, same.cfg]; exact history.counted

theorem HistoryInv.atMicroStep (p : Port) (history : HistoryInv s) : HistoryInv (s.atMicroStep p) :=
  history.of_sameRing (sameRing_atMicroStep s p) (s.atMicroStep_trace p) (s.atMicroStep_overflowCount p)

theorem HistoryInv.answerReserved (p : Port) (op : Opcode) (history : HistoryInv s) :
    HistoryInv (s.answerReserved p op) where
  fifo := ((noFrameMoved_respond rfl rfl rfl).refinesQueue (sameRing_respond s p _ _).queue).fifo history.fifo
  counted := by simpa [State.answerReserved, State.dropped, overflowed] using history.counted

/-- Settles O55: under the invariant of the ring every micro-step refines the queue, which keeps the order, and counts
what it drops. -/
theorem stepKeepsFifoOrder : Obligations.StepKeepsFifoOrder := by
  intro s t inv history next
  exact (step_keeps (P := fun s => RingInv s ∧ HistoryInv s)
    (fun p ⟨inv, history⟩ => ⟨inv.atMicroStep p, history.atMicroStep p⟩)
    (fun p op ⟨inv, history⟩ => ⟨inv.respond p _ _, history.answerReserved p op⟩)
    (fun ⟨inv, history⟩ micro =>
      ⟨inv.microStep micro, (micro.refinesQueue inv).fifo history.fifo, micro.keeps_counted history.counted⟩)
    ⟨inv, history⟩ next).2

/-! ### The numbering of the built frames -/

/-- Only the micro-step that builds a frame moves `seq_next`, and the frame carries its old value. -/
theorem MicroStep.numbering (micro : MicroStep i s t) :
    (t.seqNext = s.seqNext ∧ t.built = s.built)
      ∨ ∃ x, t.seqNext = s.seqNext + 1#16 ∧ t.built = s.built ++ [mkframe s.seqNext x] := by
  cases micro with
  | @framed x => exact .inr ⟨x, by simp [incSeq], by simp [State.built, builtFrame, respFrame]⟩
  | accepted idle =>
    refine .inl ⟨by simp, ?_⟩
    rcases accept_cases i idle with ⟨-, eq⟩ | ⟨-, eq⟩ <;> simp [State.built, eq, builtFrame, respIllegal]
  | _ => exact .inl ⟨by simp, by simp [State.built, builtFrame]⟩

theorem SequenceInv.of_built (cfg : t.cfg = s.cfg) (seqNext : t.seqNext = s.seqNext) (built : t.built = s.built)
    (numbers : SequenceInv s) : SequenceInv t where
  next := by rw [seqNext, cfg, built]; exact numbers.next
  numbered := by rw [cfg, built]; exact numbers.numbered

theorem SequenceInv.microStep (numbers : SequenceInv s) (micro : MicroStep i s t) : SequenceInv t := by
  obtain ⟨cfg, -⟩ := micro.environment
  rcases micro.numbering with ⟨seqNext, built⟩ | ⟨x, seqNext, built⟩
  · exact numbers.of_built cfg seqNext built
  · constructor
    · rw [seqNext, built, cfg, numbers.next, List.length_append, List.length_singleton, BitVec.ofNat_add,
        BitVec.add_assoc]
    · rw [built, cfg, List.map_append, numbers.numbered, List.length_append, List.length_singleton,
        List.range_succ, List.map_append, List.map_singleton, List.map_singleton,
        sequence_decodeFrame_mkframe, numbers.next]

/-- Settles O47: the frame that `FRAME` builds carries the number due, and nothing else is numbered. -/
theorem stepKeepsSequenceNumbers : Obligations.StepKeepsSequenceNumbers := fun _ _ =>
  step_keeps
    (fun {s} p => SequenceInv.of_built (s.atMicroStep_cfg p) (s.atMicroStep_seqNext p) (by simp [State.built]))
    (fun {s} p _ => SequenceInv.of_built (s.respond_cfg p _ _) (s.respond_seqNext p _ _)
      (by simp [State.answerReserved, State.built, builtFrame]))
    SequenceInv.microStep

end Sys2Proof.Machine
end

section
/-! PROOFS. The encoder and the decoder of command words (30_encoding.md R81 to R84, R92, R93). -/

namespace Sys2Proof

/-! ### Decoding what was encoded -/

theorem opField_encode (i : Instr) : opField (encode i) = opcode i := Laws.EncodingFits.opField_append _ _

/-- The payload bits of a word are the low bits of its operand. -/
theorem payload_encode (i : Instr) (l : Nat) : (encode i).extractLsb' 4 l = (operandBits i).extractLsb' 0 l :=
  Machine.extract_append_high _ _ 4 l (Nat.le_refl 4)

theorem extractLsb'_setWidth {n m : Nat} (x : BitVec n) (h : n ≤ m) : (x.setWidth m).extractLsb' 0 n = x := by
  apply BitVec.eq_of_getLsbD_eq
  intro j hj
  simp [hj, Nat.lt_of_lt_of_le hj h]

/-- Settles O1: the opcode field is the command's own, and its format keeps every bit of the operand. -/
theorem decodeOfEncode : Obligations.DecodeOfEncode := by
  intro i
  have op := opField_encode i
  cases i with
  | push f =>
    rw [decode_of_push op, payload_encode]
    exact congrArg _ (congrArg _ BitVec.extractLsb'_eq_self)
  | frame x =>
    rw [decode_of_frame op, payload_encode]
    exact congrArg _ (congrArg _ (extractLsb'_setWidth x (by decide)))
  | cksum b =>
    rw [decode_of_cksum op, payload_encode]
    exact congrArg _ (congrArg _ (extractLsb'_setWidth b (by decide)))
  | pop | avail | free | flags | ovfcnt => exact decode_of_opcode rfl op

/-! ### Encoding what was decoded -/

theorem opField_of_decode {w : CmdWord} {i : Instr} (command : decode w = .instr i) : opField w = opcode i := by
  unfold decode at command
  split at command
  all_goals cases command -- the last case names no command
  all_goals next op => exact BitVec.eq_of_toNat_eq op

theorem toNat_slice (w : CmdWord) (a l : Nat) : (w.extractLsb' a l).toNat = w.toNat / 2 ^ a % 2 ^ l := by
  rw [BitVec.extractLsb'_toNat, Nat.shiftRight_eq_div_pow]

/-- A number is its payload above its low four bits, up to the length of both. -/
theorem mod_two_pow_add_four (w l : Nat) : w % 2 ^ (l + 4) = w / 16 % 2 ^ l * 16 + w % 16 := by
  rw [Nat.pow_add, Nat.mul_comm, Nat.mod_mul, Nat.add_comm, Nat.mul_comm]

theorem toNat_encode (i : Instr) : (encode i).toNat = (operandBits i).toNat * 16 + (opcode i).toNat := by
  have fits := (opcode i).isLt
  rw [encode, BitVec.toNat_append, Nat.shiftLeft_eq, Nat.mul_comm, ← Nat.two_pow_add_eq_or_of_lt fits]

/-- The word modulo 2 to its length is its payload above its opcode. -/
theorem toNat_encode_of_payload {w : CmdWord} {i : Instr} (op : opField w = opcode i)
    (payload : (operandBits i).toNat = w.toNat / 16 % 2 ^ payloadLength (formatOf (opcode i))) :
    (encode i).toNat = w.toNat % 2 ^ wordWidth (opField w) := by
  have low : (opcode i).toNat = w.toNat % 16 := by simp [← op, opField]
  rw [op, wordWidth, mod_two_pow_add_four, toNat_encode, payload, low]

/-- Settles O2: the operand decoded is the payload of the word, as long as the command's format says. -/
theorem encodeOfDecode : Obligations.EncodeOfDecode := by
  intro w i command
  have op := opField_of_decode command
  refine toNat_encode_of_payload op ?_
  cases i with
  | push f =>
    obtain rfl : w.extractLsb' 4 240 = f := by simpa [decode_of_push op] using command
    exact toNat_slice w 4 240
  | frame x =>
    obtain rfl : w.extractLsb' 4 192 = x := by simpa [decode_of_frame op] using command
    exact (BitVec.toNat_setWidth_of_le (by decide)).trans (toNat_slice w 4 192)
  | cksum b =>
    obtain rfl : w.extractLsb' 4 224 = b := by simpa [decode_of_cksum op] using command
    exact (BitVec.toNat_setWidth_of_le (by decide)).trans (toNat_slice w 4 224)
  | pop | avail | free | flags | ovfcnt => exact (Nat.mod_one _).symm

/-! ### Reserved opcodes -/

/-- Settles O3: the decoder names a reserved opcode in its last case only, and of 16 opcodes those are the 8. -/
theorem reservedWordsAreNoCommand : Obligations.ReservedWordsAreNoCommand := by
  refine fun w op => ⟨⟨fun reserved => ?_, fun ⟨eq, mem⟩ => ?_⟩, ?_⟩
  · unfold decode at reserved
    split at reserved
    all_goals cases reserved -- every case but the last names a command
    have range := (opField w).isLt
    refine ⟨rfl, ?_⟩
    simp only [Machine.reservedOpcodes, List.mem_cons, List.not_mem_nil, imp_false] at *
    omega
  · subst eq
    exact decode_of_reserved mem
  · revert op
    decide

/-- Settles O4: closed words, which the decoder evaluates. -/
theorem specWordsDecode : Obligations.SpecWordsDecode := by
  unfold Obligations.SpecWordsDecode
  decide

end Sys2Proof
end

section
/-! PROOFS. The bytes of frames and records (00_scope.md R10; 30_encoding.md R88, R89; 43_framer.md R172, R174,
R181). -/

namespace Sys2Proof.Machine

/-! ### The bytes of a vector -/

@[simp] theorem length_bytesOf {m : Nat} (n : Nat) (v : BitVec m) : (bytesOf n v).length = n := by simp [bytesOf]

@[simp] theorem getElem_bytesOf {m n j : Nat} (v : BitVec m) (h : j < (bytesOf n v).length) :
    (bytesOf n v)[j] = byteAt v j := by
  simp [bytesOf]

theorem bytesOf_byte (b : Byte) : bytesOf 1 b = [b] :=
  congrArg (fun x => [x]) BitVec.extractLsb'_eq_self

theorem bytesOf_two {m : Nat} (v : BitVec m) : bytesOf 2 v = [byteAt v 0, byteAt v 1] := rfl

theorem bytesOf_four {m : Nat} (v : BitVec m) : bytesOf 4 v = [byteAt v 0, byteAt v 1, byteAt v 2, byteAt v 3] := rfl

theorem bytesOf_succ {m : Nat} (n : Nat) (v : BitVec m) : bytesOf (n + 1) v = bytesOf n v ++ [byteAt v n] := by
  rw [bytesOf, List.range_succ, List.map_append, List.map_singleton, bytesOf]

/-- The bytes of a vector, most significant last, are its digits to base 256. -/
theorem foldr_bytesOf {m : Nat} (v : BitVec m) (n top : Nat) :
    (bytesOf n v).foldr (fun b acc => b.toNat + 256 * acc) top = v.toNat % 2 ^ (8 * n) + 2 ^ (8 * n) * top := by
  induction n generalizing top with
  | zero => simp [bytesOf, Nat.mod_one]
  | succ n ih =>
    have digit : (byteAt v n).toNat = v.toNat / 2 ^ (8 * n) % 256 := by
      rw [byteAt, BitVec.extractLsb'_toNat, Nat.shiftRight_eq_div_pow]
    rw [bytesOf_succ, List.foldr_append, List.foldr_cons, List.foldr_nil, ih, digit, Nat.mul_succ, Nat.pow_add,
      Nat.mod_mul, Nat.mul_add, Nat.mul_assoc, Nat.add_assoc]

/-- A vector of whole bytes is rebuilt from them (R10). -/
theorem ofBytes_bytesOf {m n : Nat} (v : BitVec m) (whole : m = 8 * n) : ofBytes m (bytesOf n v) = v := by
  have fits : v.toNat % 2 ^ (8 * n) = v.toNat := Nat.mod_eq_of_lt (whole ▸ v.isLt)
  rw [ofBytes, foldr_bytesOf, Nat.mul_zero, Nat.add_zero, fits, BitVec.ofNat_toNat, BitVec.setWidth_eq]

theorem eq_of_bytesOf_eq {m n : Nat} {v u : BitVec m} (whole : m = 8 * n) (bytes : bytesOf n v = bytesOf n u) :
    v = u := by
  rw [← ofBytes_bytesOf v whole, bytes, ofBytes_bytesOf u whole]

/-- The less significant part of a concatenation comes first as bytes (R89). -/
theorem bytesOf_append {m n k l : Nat} (x : BitVec m) (y : BitVec n) (whole : n = 8 * k) :
    bytesOf (k + l) (x ++ y) = bytesOf k y ++ bytesOf l x := by
  have low : ∀ j ∈ List.range k, byteAt (x ++ y) j = byteAt y j := fun j hj =>
    extract_append_low x y (8 * j) 8 (by have := List.mem_range.mp hj; omega)
  have high : ∀ j ∈ List.range l, byteAt (x ++ y) (k + j) = byteAt x j := fun j _ =>
    (extract_append_high x y (8 * (k + j)) 8 (by omega)).trans
      (congrArg (x.extractLsb' · 8) (by omega))
  rw [bytesOf, List.range_add, List.map_append, List.map_map, List.map_congr_left low]
  exact congrArg _ (List.map_congr_left high)

/-- A concatenation laid out from its least significant part on, the bytes of the rest being known. -/
theorem bytesOf_append_of {m n l : Nat} {xs : List Byte} {x : BitVec m} (k : Nat) (y : BitVec n) (whole : n = 8 * k)
    (rest : bytesOf l x = xs) : bytesOf (k + l) (x ++ y) = bytesOf k y ++ xs :=
  rest ▸ bytesOf_append x y whole

/-- The bytes of a slice of whole bytes are a stretch of the bytes of the whole. -/
theorem bytesOf_slice {n b l a k c : Nat} (f : BitVec n) (start : b = 8 * a) (whole : l = 8 * k) (fits : a + k ≤ c) :
    bytesOf k (f.extractLsb' b l) = ((bytesOf c f).drop a).take k := by
  refine List.ext_getElem (by simp; omega) fun j hj _ => ?_
  have : j < k := by simpa using hj
  simp only [getElem_bytesOf, List.getElem_take, List.getElem_drop, byteAt, start]
  rw [extract_extract _ _ _ _ _ (by omega), Nat.mul_add]

/-- A slice is known from its stretch of the bytes. -/
theorem slice_eq_of_bytes {n b l c : Nat} {f : BitVec n} {y : BitVec l} (a k : Nat) (start : b = 8 * a)
    (whole : l = 8 * k) (fits : a + k ≤ c) (bytes : ((bytesOf c f).drop a).take k = bytesOf k y) :
    f.extractLsb' b l = y :=
  eq_of_bytesOf_eq whole ((bytesOf_slice f start whole fits).trans bytes)

/-! ### The layout of a record -/

/-- Settles O5: the fields are laid out one after the other, from the least significant on. -/
theorem frameLayout : Obligations.FrameLayout := by
  intro x
  have layout : bytesOf 30 (encodeFrame x) = _ :=
    bytesOf_append_of 1 x.header0 rfl <| bytesOf_append_of 1 x.header1 rfl <| bytesOf_append_of 2 x.sequence rfl <|
    bytesOf_append_of 4 x.timestamp rfl <| bytesOf_append_of 2 x.accelX rfl <| bytesOf_append_of 2 x.accelY rfl <|
    bytesOf_append_of 2 x.accelZ rfl <| bytesOf_append_of 2 x.gyroX rfl <| bytesOf_append_of 2 x.gyroY rfl <|
    bytesOf_append_of 2 x.gyroZ rfl <| bytesOf_append_of 4 x.processTime rfl <|
    bytesOf_append_of 4 x.priorSendTime rfl <| bytesOf_append_of 1 x.checksum rfl <| bytesOf_byte x.padding
  rw [layout, bytesOf_byte, bytesOf_byte, bytesOf_byte]
  simp only [List.append_assoc, List.cons_append, List.nil_append]

theorem decodeFrame_encodeFrame (x : SampleFrame) : decodeFrame (encodeFrame x) = x := by
  have field {b l : Nat} {y : BitVec l} (a k : Nat) (start : b = 8 * a) (whole : l = 8 * k) (fits : a + k ≤ 30)
      (bytes : ((bytesOf 30 (encodeFrame x)).drop a).take k = bytesOf k y) : (encodeFrame x).extractLsb' b l = y :=
    slice_eq_of_bytes a k start whole fits bytes
  simp only [frameLayout x, bytesOf_two, bytesOf_four, List.cons_append, List.nil_append] at field
  obtain ⟨header0, header1, sequence, timestamp, accelX, accelY, accelZ, gyroX, gyroY, gyroZ, processTime,
    priorSendTime, checksum, padding⟩ := x
  simp only [decodeFrame, SampleFrame.mk.injEq]
  exact ⟨field 0 1 rfl rfl (by decide) (bytesOf_byte _).symm, field 1 1 rfl rfl (by decide) (bytesOf_byte _).symm,
    field 2 2 rfl rfl (by decide) rfl, field 4 4 rfl rfl (by decide) rfl, field 8 2 rfl rfl (by decide) rfl,
    field 10 2 rfl rfl (by decide) rfl, field 12 2 rfl rfl (by decide) rfl, field 14 2 rfl rfl (by decide) rfl,
    field 16 2 rfl rfl (by decide) rfl, field 18 2 rfl rfl (by decide) rfl, field 20 4 rfl rfl (by decide) rfl,
    field 24 4 rfl rfl (by decide) rfl, field 28 1 rfl rfl (by decide) (bytesOf_byte _).symm,
    field 29 1 rfl rfl (by decide) (bytesOf_byte _).symm⟩

theorem encodeFrame_decodeFrame (f : Frame) : encodeFrame (decodeFrame f) = f := by
  refine eq_of_bytesOf_eq (n := 30) rfl ?_
  rw [frameLayout]
  simp [decodeFrame, bytesOf, List.range_succ, byteAt, extract_extract]

/-- Settles O6: a frame is known from its bytes, in which each field of the record is a stretch. -/
theorem frameCodecInverse : Obligations.FrameCodecInverse :=
  ⟨decodeFrame_encodeFrame, encodeFrame_decodeFrame, fun f => ofBytes_bytesOf f rfl⟩

/-! ### The built frame -/

theorem frameBody_mkframe (seq : BitVec 16) (x : Sample) : frameBody (mkframe seq x) = mkBody seq x :=
  (extract_append_low _ (mkBody seq x) 0 224 (by decide)).trans BitVec.extractLsb'_eq_self

theorem sampleOf_mkframe (seq : BitVec 16) (x : Sample) : sampleOf (mkframe seq x) = x := by
  calc (mkframe seq x).extractLsb' 32 192
      = (mkBody seq x).extractLsb' 32 192 := extract_append_low _ _ 32 192 (by decide)
    _ = (x ++ seq ++ 0x55#8).extractLsb' 24 192 := extract_append_high _ _ 32 192 (by decide)
    _ = (x ++ seq).extractLsb' 16 192 := extract_append_high _ _ 24 192 (by decide)
    _ = x.extractLsb' 0 192 := extract_append_high _ _ 16 192 (by decide)
    _ = x := BitVec.extractLsb'_eq_self

/-- Sync word, sequence number and sample, then the checksum and the padding (R174). -/
theorem bytesOf_mkframe (seq : BitVec 16) (x : Sample) :
    bytesOf 30 (mkframe seq x)
      = [0xAA#8, 0x55#8] ++ bytesOf 2 seq ++ bytesOf 24 x ++ [checksum (mkBody seq x), 0x00#8] := by
  have body : bytesOf 28 (mkBody seq x) = _ :=
    bytesOf_append_of 1 0xAA#8 rfl <| bytesOf_append_of 1 0x55#8 rfl <| bytesOf_append (l := 24) x seq (k := 2) rfl
  have tail : bytesOf 2 (0x00#8 ++ checksum (mkBody seq x)) = _ :=
    bytesOf_append_of 1 (checksum (mkBody seq x)) rfl (bytesOf_byte 0x00#8)
  have layout : bytesOf 30 (mkframe seq x) = _ := bytesOf_append_of 28 (mkBody seq x) rfl tail
  rw [layout, body, bytesOf_byte, bytesOf_byte, bytesOf_byte]
  simp only [List.append_assoc, List.cons_append, List.nil_append]

theorem byteAt_of_bytesOf {n c j : Nat} {f : BitVec n} {b : Byte} (bytes : (bytesOf c f)[j]? = some b) :
    byteAt f j = b := by
  obtain ⟨h, eq⟩ := List.getElem?_eq_some_iff.mp bytes
  rwa [getElem_bytesOf] at eq

theorem wellFormedFrame_mkframe (seq : BitVec 16) (x : Sample) : wellFormedFrame (mkframe seq x) = true := by
  have byte {j : Nat} {b : Byte} (bytes : (bytesOf 30 (mkframe seq x))[j]? = some b) := byteAt_of_bytesOf bytes
  simp only [bytesOf_mkframe, bytesOf_two, List.cons_append, List.nil_append] at byte
  have first : byteAt (mkframe seq x) 0 = 0xAA#8 := byte rfl
  have second : byteAt (mkframe seq x) 1 = 0x55#8 := byte rfl
  have sum : byteAt (mkframe seq x) 28 = checksum (mkBody seq x) := byte (by simp)
  have padding : byteAt (mkframe seq x) 29 = 0x00#8 := byte (by simp)
  rw [wellFormedFrame, frameBody_mkframe, first, second, sum, padding]
  simp

/-- Settles O43: the bytes of the frame are those of `bytesOf_mkframe`, and its fields are stretches of them. -/
theorem builtFrameWellFormed : Obligations.BuiltFrameWellFormed := fun seq x =>
  ⟨wellFormedFrame_mkframe seq x, sequence_decodeFrame_mkframe seq x, sampleOf_mkframe seq x,
    by rw [frameBody_mkframe, bytesOf_mkframe]⟩

/-! ### What the checksum detects -/

/-- The sum of the bytes with one of them set apart. -/
theorem sum_bytesOf (b : CkBytes) {k : Nat} (hk : k < 28) :
    ((bytesOf 28 b).map BitVec.toNat).sum
      = (byteAt b k).toNat + ∑ j ∈ (Finset.range 28).erase k, (byteAt b j).toNat := by
  calc ((bytesOf 28 b).map BitVec.toNat).sum
      = ∑ j ∈ Finset.range 28, (byteAt b j).toNat := by rw [bytesOf, List.map_map]; rfl
    _ = _ := (Finset.add_sum_erase _ _ (Finset.mem_range.mpr hk)).symm

/-- Settles O42: the sum of the bytes does not see their order, and two bytes that differ do so modulo 256. -/
theorem checksumDetection : Obligations.ChecksumDetection := by
  refine ⟨fun b c perm => ?_, fun b c k hk others differ same => differ ?_⟩
  · apply BitVec.eq_of_toNat_eq
    rw [checksumIsByteSum b, checksumIsByteSum c, (perm.map BitVec.toNat).sum_eq]
  · have sums := congrArg BitVec.toNat same
    have rest : ∑ j ∈ (Finset.range 28).erase k, (byteAt b j).toNat
        = ∑ j ∈ (Finset.range 28).erase k, (byteAt c j).toNat :=
      Finset.sum_congr rfl fun j hj => by
        rw [others j (Finset.mem_range.mp (Finset.mem_of_mem_erase hj)) (Finset.ne_of_mem_erase hj)]
    rw [checksumIsByteSum b, checksumIsByteSum c, sum_bytesOf b hk, sum_bytesOf c hk, rest] at sums
    exact BitVec.eq_of_toNat_eq (by omega)

end Sys2Proof.Machine
end

section
/-! PROOFS. Indices and flags, reset, the slot array and observation (10_state.md R24 to R37; 20_memory.md R50, R61,
R62; 30_encoding.md R99; 70_reset_and_hazards.md R260, R261). -/

namespace Sys2Proof.Machine

variable {s : State}

/-! ### The flags -/

theorem emptyFlag_iff {n w r : Nat} (hw : w < n) (hr : r < n) : emptyFlag w r = true ↔ available n w r = 0 := by
  rw [emptyFlag, beq_iff_eq, available_eq_zero_iff hw hr]

theorem fullFlag_iff {n w r : Nat} (hw : w < n) (hr : r < n) : fullFlag n w r = true ↔ freeSpace n w r = 0 := by
  rw [fullFlag, beq_iff_eq, freeSpace_eq_zero_iff hw hr]

/-- Settles O8: each flag is a count that is 0, and the two counts make `n - 1` together. -/
theorem flagsOfIndices : Obligations.FlagsOfIndices := by
  intro n w r hn hw hr
  have sum := available_add_freeSpace (by omega : 0 < n) w r
  rw [emptyFlag_iff hw hr, fullFlag_iff hw hr]
  omega

/-- Settles O48: the two bits of the response to `FLAGS` are the flags, and each flag is a count that is 0. -/
theorem pseudoOperationsExpand : Obligations.PseudoOperationsExpand := by
  have bits (e f : Bool) : (respFlags e f).payload.testBit 0 = e ∧ (respFlags e f).payload.testBit 1 = f := by
    cases e <;> cases f <;> decide
  refine ⟨fun p x => ⟨rfl, rfl, rfl, rfl⟩, fun p e f => ?_, fun p n width w r _ hw hr => ?_, fun x f g y => ?_, rfl,
    fun bits f => ⟨rfl, rfl⟩⟩
  · simp [pseudoAnswer, bits]
  · simp [pseudoAnswer, bits, respCount, emptyFlag_iff hw hr, fullFlag_iff hw hr]
  · have payload : BitVec.ofNat 240 (respFrame f).payload = f := by simp [respFrame]
    refine ⟨rfl, ?_, rfl⟩
    show (if Status.ok = .ok then some (Port.w, Instr.push (BitVec.ofNat 240 (respFrame f).payload)) else none) = _
    rw [payload, if_pos rfl]

/-! ### Reset -/

theorem available_resetWith {c : Config} (ok : c.ok = true) : (State.resetWith c).available = 0 := by
  have hN : 0 < c.N := Nat.zero_lt_of_lt (Config.two_le_N ok)
  exact (available_eq_zero_iff hN hN).mpr rfl

/-- Settles O9: the registers as `resetWith` sets them, and the flags of two equal indices. -/
theorem resetRegisters : Obligations.ResetRegisters := by
  refine fun c => ⟨rfl, rfl, rfl, rfl, rfl, rfl, rfl, rfl, rfl, fun ok => ?_⟩
  refine ⟨available_resetWith ok, freeSpace_resetWith ok, rfl, ?_⟩
  have hN := Config.two_le_N ok
  show (inc c.N 0 == 0) = false
  rw [inc_eq_ite (by omega), if_neg (by omega)]
  rfl

theorem wellFormedState_resetWith {c : Config} (ok : c.ok = true) : WellFormedState (State.resetWith c) := by
  have hN : 0 < c.N := Nat.zero_lt_of_lt (Config.two_le_N ok)
  exact {
    cfgOk := ok
    memWf := reset_memory_wf c
    slotsInRange := nofun
    writeIndexLt := hN
    readIndexLt := hN
    overflowLt := Nat.two_pow_pos _
    wLastSeenLt := hN
    rLastSeenLt := hN
    wAdmitted := nofun
    rAdmitted := nofun
    rObsLt := nofun
    wObsLt := nofun }

theorem ringInv_resetWith {c : Config} (ok : c.ok = true) : RingInv (State.resetWith c) where
  wf := wellFormedState_resetWith ok
  rObsBehind := nofun
  stored := nofun
  wObsBehind := nofun
  loaded := nofun
  liveWritten k live := by rw [available_resetWith ok] at live; exact absurd live (Nat.not_lt_zero k)
  wSeenBehind _ := Nat.le_refl _
  rSeenBehind _ := Nat.le_refl _
  wSeenLatest _ := nofun
  rSeenLatest _ := nofun
  wSeenRoom _ := nofun
  rSeenFrame _ := nofun

/-- Settles O10: the ring is empty, the trace is empty, and the number due is `SEQ_INIT`. -/
theorem resetMeetsInvariants : Obligations.ResetMeetsInvariants := by
  refine fun c ok => ⟨ringInv_resetWith ok, ⟨?_, ?_⟩, ⟨?_, rfl⟩⟩
  · rw [State.queue, available_resetWith ok]
    rfl
  · exact (Nat.zero_mod _).symm
  · exact (BitVec.add_zero _).symm

/-! ### The slot array and observation -/

/-- Settles O11: read after write, the form of the listing, and what is listed. -/
theorem slotWriteThenRead : Obligations.SlotWriteThenRead := by
  refine fun m i v => ⟨fun j => ?_, fun wf => Memory.write_wf wf i v, fun j => ?_⟩
  · simp only [Memory.read_write, eq_comm]
  · rw [Memory.written_write]
    by_cases same : i = j
    · simp [same]
    · simp [same, Ne.symm same]

/-- A value passed through lies at its own depth. -/
theorem mem_passedThrough_iff (n last cur v : Nat) :
    v ∈ passedThrough n last cur ↔ ∃ k, staleValue n last cur k = v := by
  constructor
  · intro mem
    obtain ⟨j, hj, rfl⟩ := List.mem_map.mp mem
    exact ⟨j, by rw [staleValue, Nat.mod_eq_of_lt (List.mem_range.mp hj)]⟩
  · rintro ⟨k, rfl⟩
    exact staleValue_mem n last cur k

/-- Settles O12: the model's own `observed` and `afterObserve` stand in the relation, and each
value has its depth. -/
theorem observeDrawsAllowedValue : Obligations.ObserveDrawsAllowedValue := fun s p =>
  ⟨observes_afterObserve s p, mem_passedThrough_iff⟩

/-- Settles O13: both views show an index that is behind the true one, and a flag is a count that is 0. -/
theorem observedCountsAreSafe : Obligations.ObservedCountsAreSafe := by
  intro s inv
  have hw := inv.wf.writeIndexLt
  have hr := inv.wf.readIndexLt
  have frames := inv.observed_r_behind
  have room : freeSpace s.cfg.N s.writeIndex (s.observed .w) ≤ s.freeSpace :=
    Nat.sub_le_sub_right (Nat.sub_le_sub_left inv.observed_w_behind _) 1
  refine ⟨frames, room, fun notEmpty => ?_, fun notFull => ?_⟩
  · rw [← Bool.not_eq_true, emptyFlag_iff (inv.wf.observed_lt .r) hr] at notEmpty
    omega
  · rw [← Bool.not_eq_true, fullFlag_iff hw (inv.wf.observed_lt .w)] at notFull
    omega

end Sys2Proof.Machine
end

section
/-! PROOFS. The step: which configurations it refuses, whose micro-step it takes and in which state, and whole commands
run by it (00_scope.md R5, R14; 20_memory.md R59, R60, R63; 30_encoding.md R80; 40_write_port.md R110 to R114;
41_read_port.md R130 to R134). -/

namespace Sys2Proof

theorem Config.ok_iff_pow {c : Config} : c.ok = true ↔ 2 ≤ c.N ∧ ∃ k, c.N = 2 ^ k := by
  rw [Config.ok_iff]
  refine and_congr_right fun _ => ⟨fun pow => ⟨c.W, pow.symm⟩, ?_⟩
  rintro ⟨k, pow⟩
  rw [Config.W, pow, Nat.log2_two_pow]

end Sys2Proof

namespace Sys2Proof.Machine

variable {s t u v : State} {i : Instr} {p : Port}

/-! ### What the step refuses -/

theorem twoStep_ne_refused (i : Instr) (finish : State → State) (s : State) (x : Refusal) :
    twoStep i finish s ≠ .refused x := by
  unfold twoStep
  split_ifs <;> nofun

theorem pushDecide_ne_refused (f : Frame) (v : Nat) (s : State) (x : Refusal) : pushDecide f v s ≠ .refused x := by
  unfold pushDecide
  split_ifs <;> nofun

theorem popDecide_ne_refused (v : Nat) (s : State) (x : Refusal) : popDecide v s ≠ .refused x := by
  unfold popDecide
  split_ifs <;> nofun

theorem execPush_ne_refused (f : Frame) (s : State) (x : Refusal) : execPush f s ≠ .refused x := by
  unfold execPush
  split
  · split <;> nofun
  · split
    · nofun
    · split <;> nofun
    · split
      · exact pushDecide_ne_refused _ _ _ _
      · nofun
    · split <;> nofun

theorem execPop_ne_refused (s : State) (x : Refusal) : execPop s ≠ .refused x := by
  unfold execPop
  split
  · split <;> nofun
  · split
    · nofun
    · split <;> nofun
    · exact popDecide_ne_refused _ _ _
    · nofun

/-- No command is without a meaning. -/
theorem exec_ne_refused (i : Instr) (s : State) (x : Refusal) : exec i s ≠ .refused x := by
  cases i with
  | push f => exact execPush_ne_refused f s x
  | pop => exact execPop_ne_refused s x
  | avail | free | flags | ovfcnt | frame | cksum => exact twoStep_ne_refused _ _ _ _

/-- Settles O22: an admitted configuration is refused nowhere, since no command is. -/
theorem badConfigurationRefused : Obligations.BadConfigurationRefused := by
  intro s
  rw [← Config.ok_iff_pow]
  unfold step
  split
  · next ok =>
    refine ⟨fun refused => ?_, fun notOk => absurd ok notOk⟩
    split at refused
    · cases refused
    · split at refused
      · exact absurd refused (exec_ne_refused _ _ _)
      · cases refused
      · cases refused
  · next notOk => exact ⟨fun _ => notOk, fun _ => rfl⟩

/-! ### Whose micro-step it is -/

/-- A port that has a micro-step to take and that the schedule names is next. -/
theorem State.nextPort_of_named {order : List Port} (named : s.sched = p :: order) (enabled : s.enabled p = true) :
    s.nextPort = some p := by
  have chosen : s.chosen = p := by simp [State.chosen, named]
  cases p with
  | w => cases other : s.enabled .r <;> simp [State.nextPort, enabled, other, chosen]
  | r => cases other : s.enabled .w <;> simp [State.nextPort, enabled, other, chosen]

theorem State.enabled_of_nextPort (next : s.nextPort = some p) : s.enabled p = true := by
  unfold State.nextPort at next
  split at next
  · cases p <;> assumption
  · cases next; assumption
  · cases next; assumption
  · cases next

theorem State.nextPort_eq_none_iff : s.nextPort = none ↔ s.enabled .w = false ∧ s.enabled .r = false := by
  unfold State.nextPort
  split <;> simp_all

/-- Settles O23: a name put in front of the schedule changes neither port's being enabled. -/
theorem eitherEnabledPortMayMove : Obligations.EitherEnabledPortMayMove := fun s p =>
  ⟨fun enabled => State.nextPort_of_named rfl (by cases p <;> exact enabled), State.enabled_of_nextPort,
    State.nextPort_eq_none_iff⟩

/-! ### The state in which a micro-step runs -/

theorem State.atMicroStep_of_idle (idle : s.idle p = true) : s.atMicroStep p = (s.giveTurn p).consume p := if_pos idle

theorem State.atMicroStep_of_inProgress (busy : s.inProgress p = some i) : s.atMicroStep p = s.giveTurn p := by
  rw [State.atMicroStep, State.idle_of_inProgress busy]
  rfl

/-- Settles O20: the two ways a port moves, and the fields that the bookkeeping leaves. -/
theorem stepRunsDecodedCommand : Obligations.StepRunsDecodedCommand := by
  refine fun s p i ok next => ⟨fun w rest idle front command => ⟨?_, ?_⟩, fun busy => ?_, s.giveTurn_turn p,
    by simp [SameRegisters], by simp [SameRegisters]⟩
  · rw [step_of_instr ok next idle front command, State.atMicroStep_of_idle idle]
  · rw [← State.atMicroStep_of_idle idle, State.input_atMicroStep_same idle, front, List.tail_cons]
  · rw [step_of_inProgress ok next busy, State.atMicroStep_of_inProgress busy]

/-- The step after a word has been presented next: its command's, at that port, which was made idle. -/
theorem step_presentNext {w : CmdWord} (ok : s.cfg.ok = true) (command : decode w = .instr i) :
    step (s.presentNext p w) = exec i { s.setIdle p with turn := p } := by
  have idle : (s.presentNext p w).idle p = true := by cases p <;> rfl
  have front : (s.presentNext p w).input p = w :: s.input p := by cases p <;> rfl
  have named : (s.presentNext p w).sched = p :: s.sched := by cases p <;> rfl
  have enabled : (s.presentNext p w).enabled p = true := by simp [State.enabled, front]
  have before : (s.presentNext p w).atMicroStep p = { s.setIdle p with turn := p } := by cases p <;> rfl
  rw [step_of_instr (by cases p <;> exact ok) (State.nextPort_of_named named enabled) idle front command, before]

/-- Settles O21: the word is presented at the port that its command has for home. -/
theorem placedWordRunsNext : Obligations.PlacedWordRunsNext := by
  intro s nbits n i ok table
  have command : decode (BitVec.ofNat 244 (n % 2 ^ nbits)) = .instr i := by
    unfold decodeTableWord at table
    split at table
    · next command => cases table; exact command
    · cases table
  rw [State.withFetchWord, step_presentNext ok command, command]

/-- Settles O15: an idle port takes up what it admits. -/
theorem idlePortAcceptsCommand : Obligations.IdlePortAcceptsCommand := by
  intro i s idle wf
  have yes : admits s.cfg s.turn i = true := by
    rw [Instr.wellFormed, Bool.and_eq_true] at wf
    exact wf.2
  exact ⟨exec_of_admits rfl idle yes, s.startedAt_setStarted _ i, by simp [SameRegisters]⟩

/-- Settles O59: while port W is busy the step is one of its own command, which leaves what port R owns. -/
theorem preemptiveScheduleExcludesPortR : Obligations.PreemptiveScheduleExcludesPortR := by
  intro s t preempt busy next
  obtain ⟨ok, -⟩ := step_next next
  cases command : s.inProgress .w with
  | none => simp [State.idle_of_inProgress_none command] at busy
  | some i =>
    rw [step_of_inProgress ok (preempt busy) command, State.atMicroStep_of_inProgress command] at next
    have micro := exec_next next
    obtain ⟨readIndex, rstate, rLastSeen⟩ := micro.keeps_r (s.giveTurn_turn .w)
    obtain ⟨-, -, rIn, -, turn⟩ := micro.environment
    exact ⟨turn.trans (s.giveTurn_turn .w), readIndex.trans (s.giveTurn_readIndex .w),
      rstate.trans (s.giveTurn_rstate .w), rLastSeen.trans (s.giveTurn_rLastSeen .w),
      rIn.trans (s.giveTurn_rIn .w)⟩

/-! ### The instants of OVERFLOW and EMPTY -/

theorem State.observed_of_current (view : s.cfg.view = .current) : s.observed p = s.otherIndex p := by
  simp [State.observed, view]

theorem pushObserve_of_current (view : s.cfg.view = .current) (f : Frame) :
    pushObserve f s = { s with wstate := .pushObserved f s.readIndex } := by
  rw [pushObserve, State.afterObserve_of_current view, State.observed_of_current view]
  rfl

theorem popObserve_of_current (view : s.cfg.view = .current) :
    popObserve s = { s with rstate := .popObserved s.writeIndex } := by
  rw [popObserve, State.afterObserve_of_current view, State.observed_of_current view]
  rfl

/-- Settles O57: the index observed is the one `read_index` held then, and by it port W decides. -/
theorem overflowMeansFullAtObservation : Obligations.OverflowMeansFullAtObservation := by
  intro s t u v f view turn at1 observes cfg record writeIndex turn' decides
  rw [exec_push_of_started turn at1] at observes
  cases observes
  have at2 : u.wstate = .pushObserved f s.readIndex := by
    rw [record, pushObserve_of_current view]
  have seen : freeSpace u.cfg.N u.writeIndex s.readIndex = s.freeSpace := by
    rw [cfg, writeIndex]; simp [State.freeSpace]
  rw [exec_push_of_observed turn' at2, pushDecide, seen] at decides
  by_cases full : s.freeSpace = 0
  · rw [if_pos full] at decides
    cases decides
    exact ⟨fun _ => rfl, fun _ => full⟩
  · rw [if_neg full] at decides
    split at decides
    · cases decides
      simp [full]
    · cases decides

/-- Settles O60: the index observed is the one `write_index` held then, and by it port R decides. -/
theorem emptyMeansEmptyAtObservation : Obligations.EmptyMeansEmptyAtObservation := by
  intro s t u v view turn at1 observes cfg record readIndex turn' decides
  rw [exec_pop_of_started turn at1] at observes
  cases observes
  have at2 : u.rstate = .popObserved s.writeIndex := by
    rw [record, popObserve_of_current view]
  have seen : available u.cfg.N s.writeIndex u.readIndex = s.available := by
    rw [cfg, readIndex]; simp [State.available]
  rw [exec_pop_of_observed turn' at2, popDecide, seen] at decides
  by_cases empty : s.available = 0
  · rw [if_pos empty] at decides
    cases decides
    exact ⟨fun _ => ⟨_, rfl⟩, fun _ => empty⟩
  · rw [if_neg empty] at decides
    split at decides
    · cases decides
      simp [empty]
    · cases decides

end Sys2Proof.Machine
end

section
/-! PROOFS. A `PUSH` and a `POP` run to their ends with no other port moving in between (40_write_port.md R110 to R114;
41_read_port.md R130 to R134). -/

namespace Sys2Proof.Machine

variable {s t : State} {i : Instr} {p : Port} {order : List Port}

/-! ### The steps the schedule gives to one port -/

theorem run_succ {M : Host.Core} {s t : M.State} (k : Nat) (next : M.step s = .next t) :
    M.run (k + 1) s = M.run k t := by
  rw [Host.Core.run, next]

theorem State.giveTurn_of_named (named : s.sched = p :: order) :
    s.giveTurn p = { s with turn := p, sched := order } := by
  simp [State.giveTurn, named]

/-- The step of a port that the schedule names and that has a command in progress. -/
theorem step_of_named_inProgress (ok : s.cfg.ok = true) (named : s.sched = p :: order)
    (busy : s.inProgress p = some i) : step s = exec i { s with turn := p, sched := order } := by
  have enabled : s.enabled p = true := by simp [State.enabled, State.idle_of_inProgress busy]
  rw [step_of_inProgress ok (State.nextPort_of_named named enabled) busy, State.atMicroStep_of_inProgress busy,
    State.giveTurn_of_named named]

/-- The step of a port that the schedule names and that is idle with a command it admits at its input. -/
theorem step_of_named_idle {w : CmdWord} {rest : List CmdWord} (ok : s.cfg.ok = true) (named : s.sched = p :: order)
    (idle : s.idle p = true) (front : s.input p = w :: rest) (command : decode w = .instr i)
    (yes : admits s.cfg p i = true) :
    step s = .next ((({ s with turn := p, sched := order } : State).consume p).setStarted p i) := by
  have enabled : s.enabled p = true := by simp [State.enabled, front]
  rw [step_of_instr ok (State.nextPort_of_named named enabled) idle front command,
    exec_of_admits (s.atMicroStep_turn p) (by simpa using idle) (by simpa using yes), State.atMicroStep_of_idle idle,
    State.giveTurn_of_named named]

/-! ### PUSH -/

/-- `s` with its port W in turn, at this record, these words still to come and this schedule left. -/
def State.wAt (s : State) (rest : List CmdWord) (order : List Port) (record : WState) : State :=
  { s with wIn := rest, sched := order, turn := .w, wstate := record }

variable {f : Frame} {rest : List CmdWord}

theorem step_push_accepts (ok : s.cfg.ok = true) (named : s.sched = .w :: order) (at0 : s.wstate = .idle)
    (front : s.wIn = encode (.push f) :: rest) : step s = .next (s.wAt rest order (.started (.push f))) := by
  rw [step_of_named_idle (p := .w) ok named (s.idle_w_iff.mpr at0) front (decodeOfEncode _) rfl]
  simp [State.wAt, State.consume, State.setStarted, front]

theorem step_wAt {record : WState} (ok : s.cfg.ok = true)
    (busy : (s.wAt rest order record).inProgress .w = some i) :
    step (s.wAt rest (.w :: order) record) = exec i (s.wAt rest order record) :=
  step_of_named_inProgress (s := s.wAt rest (.w :: order) record) ok rfl busy

theorem step_push_observes (ok : s.cfg.ok = true) (view : s.cfg.view = .current) :
    step (s.wAt rest (.w :: order) (.started (.push f))) = .next (s.wAt rest order (.pushObserved f s.readIndex)) := by
  rw [step_wAt (i := .push f) ok rfl, exec_push_of_started rfl rfl]
  exact congrArg _ (pushObserve_of_current (s := s.wAt rest order _) view f)

theorem step_push_drops {v : Nat} (ok : s.cfg.ok = true) (full : freeSpace s.cfg.N s.writeIndex v = 0) :
    step (s.wAt rest (.w :: order) (.pushObserved f v))
      = .next (pushDrop f (s.wAt rest order (.pushObserved f v))) := by
  rw [step_wAt (i := .push f) ok rfl, exec_push_of_observed rfl rfl]
  exact pushDecide_of_full full

theorem step_push_stores {v : Nat} (ok : s.cfg.ok = true) (room : freeSpace s.cfg.N s.writeIndex v ≠ 0)
    (range : s.writeIndex < s.cfg.N) :
    step (s.wAt rest (.w :: order) (.pushObserved f v))
      = .next (({ s with slots := Memory.write s.slots s.writeIndex f } : State).wAt rest order (.pushStored f)) := by
  rw [step_wAt (i := .push f) ok rfl, exec_push_of_observed rfl rfl]
  exact pushDecide_of_room room range

theorem step_push_publishes (ok : s.cfg.ok = true) :
    step (s.wAt rest (.w :: order) (.pushStored f)) = .next (pushPublish f (s.wAt rest order (.pushStored f))) := by
  rw [step_wAt (i := .push f) ok rfl, exec_push_of_stored rfl rfl]

/-- Settles O29: acceptance and observation, then the drop, or the store and the publication. -/
theorem pushRunsToItsEnd : Obligations.PushRunsToItsEnd := by
  refine fun s f rest order ok view at0 front => ⟨fun named hw room => ?_, fun named full => ?_⟩
  · calc Host.Core.run core 4 s
        = Host.Core.run core 3 (s.wAt rest (.w :: .w :: .w :: order) (.started (.push f))) :=
          run_succ (M := core) 3 (step_push_accepts ok named at0 front)
      _ = Host.Core.run core 2 (s.wAt rest (.w :: .w :: order) (.pushObserved f s.readIndex)) :=
          run_succ (M := core) 2 (step_push_observes ok view)
      _ = Host.Core.run core 1 (({ s with slots := Memory.write s.slots s.writeIndex f } : State).wAt rest
            (.w :: order) (.pushStored f)) :=
          run_succ (M := core) 1 (step_push_stores ok room hw)
      _ = .next (pushPublish f (({ s with slots := Memory.write s.slots s.writeIndex f } : State).wAt rest
            order (.pushStored f))) :=
          run_succ (M := core) 0 (step_push_publishes ok)
      _ = _ := by simp [State.wAt, State.respond, State.setIdle, at0]
  · calc Host.Core.run core 3 s
        = Host.Core.run core 2 (s.wAt rest (.w :: .w :: order) (.started (.push f))) :=
          run_succ (M := core) 2 (step_push_accepts ok named at0 front)
      _ = Host.Core.run core 1 (s.wAt rest (.w :: order) (.pushObserved f s.readIndex)) :=
          run_succ (M := core) 1 (step_push_observes ok view)
      _ = .next (pushDrop f (s.wAt rest order (.pushObserved f s.readIndex))) :=
          run_succ (M := core) 0 (step_push_drops ok full)
      _ = _ := by simp [State.wAt, State.respond, State.setIdle, at0, incOverflow]

/-! ### POP -/

/-- `s` with its port R in turn, at this record, these words still to come and this schedule left. -/
def State.rAt (s : State) (rest : List CmdWord) (order : List Port) (record : RState) : State :=
  { s with rIn := rest, sched := order, turn := .r, rstate := record }

theorem step_pop_accepts (ok : s.cfg.ok = true) (named : s.sched = .r :: order) (at0 : s.rstate = .idle)
    (front : s.rIn = encode .pop :: rest) : step s = .next (s.rAt rest order (.started .pop)) := by
  rw [step_of_named_idle (p := .r) ok named (s.idle_r_iff.mpr at0) front (decodeOfEncode _) rfl]
  simp [State.rAt, State.consume, State.setStarted, front]

theorem step_rAt {record : RState} (ok : s.cfg.ok = true)
    (busy : (s.rAt rest order record).inProgress .r = some i) :
    step (s.rAt rest (.r :: order) record) = exec i (s.rAt rest order record) :=
  step_of_named_inProgress (s := s.rAt rest (.r :: order) record) ok rfl busy

theorem step_pop_observes (ok : s.cfg.ok = true) (view : s.cfg.view = .current) :
    step (s.rAt rest (.r :: order) (.started .pop)) = .next (s.rAt rest order (.popObserved s.writeIndex)) := by
  rw [step_rAt (i := .pop) ok rfl, exec_pop_of_started rfl rfl]
  exact congrArg _ (popObserve_of_current (s := s.rAt rest order _) view)

theorem step_pop_reports {v : Nat} (ok : s.cfg.ok = true) (empty : available s.cfg.N v s.readIndex = 0) :
    step (s.rAt rest (.r :: order) (.popObserved v)) = .next (popEmpty (s.rAt rest order (.popObserved v))) := by
  rw [step_rAt (i := .pop) ok rfl, exec_pop_of_observed rfl rfl]
  exact popDecide_of_empty empty

theorem step_pop_loads {v : Nat} (ok : s.cfg.ok = true) (data : available s.cfg.N v s.readIndex ≠ 0)
    (range : s.readIndex < s.cfg.N) :
    step (s.rAt rest (.r :: order) (.popObserved v)) = .next (s.rAt rest order (.popLoaded (s.slot s.readIndex))) := by
  rw [step_rAt (i := .pop) ok rfl, exec_pop_of_observed rfl rfl]
  exact popDecide_of_data data range

theorem step_pop_releases (ok : s.cfg.ok = true) (d : Frame) :
    step (s.rAt rest (.r :: order) (.popLoaded d)) = .next (popRelease d (s.rAt rest order (.popLoaded d))) := by
  rw [step_rAt (i := .pop) ok rfl, exec_pop_of_loaded rfl rfl]

/-- Settles O35: acceptance and observation, then the report, or the load and the release. -/
theorem popRunsToItsEnd : Obligations.PopRunsToItsEnd := by
  refine fun s rest order ok view at0 front => ⟨fun named hr data => ?_, fun named empty => ?_⟩
  · calc Host.Core.run core 4 s
        = Host.Core.run core 3 (s.rAt rest (.r :: .r :: .r :: order) (.started .pop)) :=
          run_succ (M := core) 3 (step_pop_accepts ok named at0 front)
      _ = Host.Core.run core 2 (s.rAt rest (.r :: .r :: order) (.popObserved s.writeIndex)) :=
          run_succ (M := core) 2 (step_pop_observes ok view)
      _ = Host.Core.run core 1 (s.rAt rest (.r :: order) (.popLoaded (s.slot s.readIndex))) :=
          run_succ (M := core) 1 (step_pop_loads ok data hr)
      _ = .next (popRelease (s.slot s.readIndex) (s.rAt rest order (.popLoaded (s.slot s.readIndex)))) :=
          run_succ (M := core) 0 (step_pop_releases ok _)
      _ = _ := by simp [State.rAt, State.respond, State.setIdle, at0]
  · refine ⟨Config.emptyPayload s.draws, ?_⟩
    calc Host.Core.run core 3 s
        = Host.Core.run core 2 (s.rAt rest (.r :: .r :: order) (.started .pop)) :=
          run_succ (M := core) 2 (step_pop_accepts ok named at0 front)
      _ = Host.Core.run core 1 (s.rAt rest (.r :: order) (.popObserved s.writeIndex)) :=
          run_succ (M := core) 1 (step_pop_observes ok view)
      _ = .next (popEmpty (s.rAt rest order (.popObserved s.writeIndex))) :=
          run_succ (M := core) 0 (step_pop_reports ok empty)
      _ = _ := by simp [State.rAt, State.respond, State.setIdle, at0]

end Sys2Proof.Machine
end
